-- ==== Sys2Proof/Word.lean ====
section
/-! DEFINITION. The words the machine computes on: bytes, halfwords, 32-bit words, register numbers, CSR
addresses (spec/00_scope.md R7, R9, R10), and the three access widths (spec/20_memory.md R56). -/

namespace Sys2Proof

/-- A byte of memory, 8 bits (R50). -/
abbrev Byte := BitVec 8

/-- A halfword, the unit of LH, LHU and SH (R56). -/
abbrev Half := BitVec 16

/-- A 32-bit word: a register, an address, a pc, a CSR, an instruction word (R7, R10). -/
abbrev Word := BitVec 32

/-- The 5-bit number of a general register, which the manual calls its "dirección" (R20). -/
abbrev Reg := BitVec 5

/-- The 12-bit address of a control and status register (R34). -/
abbrev CsrAddr := BitVec 12

/-- The register number of the stack pointer, x[2] (R22). -/
abbrev spReg : Reg := 2#5

/-- The widths in which an instruction moves data to or from memory (R56). -/
inductive Width where
  | byte
  | half
  | word
deriving DecidableEq, Repr

/-- How many bytes an access of this width moves: the `n` in {1, 2, 4} of R52 and R53. -/
def Width.bytes : Width → Nat
  | .byte => 1
  | .half => 2
  | .word => 4

end Sys2Proof
end

