-- ==== Sys2Proof/Config.lean ====
section
/-! DEFINITION. The parameters that the source leaves open (spec/00_scope.md R8, spec/92_eei_decisions.md) and
the free values. `Params` and the CSR declarations are plain data that the machine's state carries and no step
changes, so every statement about every state holds for every value of the parameters
(notes/assumptions/3.md). Of R8's ten rows, IRQ_MODEL and TRAP_MODEL have one defined value each (the premise
IRQ = 0000 of R247; the model-level faults of R235), so they need no field. -/

namespace Sys2Proof.Config

/-- BYTE_ORDER: the order of bytes within a halfword and a word (R51, D1). -/
inductive ByteOrder where
  | little
  | big
deriving DecidableEq, Repr

/-- What backs a region of addresses in MEM_MAP, and whether reads of it have side effects (R8, R58, R59, D21, D33). -/
inductive RegionKind where
  /-- plain memory: a read returns the last value written to each byte, and has no side effect -/
  | memory
  /-- a device, whose answers the platform gives and the spec does not; `readEffects` says whether reading it has
  side effects -/
  | device (readEffects : Bool)
deriving DecidableEq, Repr

/-- One region of MEM_MAP: the addresses `base` to `base + size - 1`. -/
structure Region where
  base : Nat
  size : Nat
  kind : RegionKind
deriving DecidableEq, Repr

/-- STORE_RS2_FIELD: which bits of a store word name its data register (R85, R160, D8). -/
inductive StoreRs2Field where
  /-- `IR[24:20]`, which are also `offset[4:0]`: the spec's default -/
  | ir24to20
  /-- `IR[11:7]`: the alternative reading -/
  | ir11to7
deriving DecidableEq, Repr

/-- SP_UIMM_DECODE: how SWSP and LWSP assemble `uimm` (R98, D11). -/
inductive SpUimmDecode where
  /-- the layout of C.SWSP, a multiple of 4: the spec's default -/
  | cSwsp
  /-- the plain field, zero-extended -/
  | plain
deriving DecidableEq, Repr

/-- SP_AUTO_ADJUST: whether SWSP and LWSP move the stack pointer (R223, D12). -/
inductive SpAutoAdjust where
  /-- neither instruction changes x[2]: the spec's default -/
  | unchanged
  /-- SWSP subtracts 4 before computing the address; LWSP adds 4 after the load -/
  | pushPredecPopPostinc
  /-- the mirror image: SWSP subtracts 4 after the store; LWSP adds 4 before computing the address -/
  | pushPostdecPopPreinc
deriving DecidableEq, Repr

/-- POP_RD_FIELD: which bits name the destination of LWSP (R222, D13). -/
inductive PopRdField where
  /-- `IR[6:2]`, the register field of the shared format: the spec's default -/
  | ir6to2
  /-- `IR[11:7]`, as in C.LWSP -/
  | ir11to7
deriving DecidableEq, Repr

/-- Which half of a CSR instruction a side effect belongs to: its read or its write (R35, R200). -/
inductive CsrTrigger where
  | read
  | write
deriving DecidableEq, Repr

/-- What a side effect does to the CSR it acts on. -/
inductive CsrChange where
  /-- the value keeps the bits of `keep`, and then the bits of `flip` are complemented: each bit is kept, cleared,
  set or complemented -/
  | update (keep flip : Word)
  /-- the declaration does not say what the value becomes -/
  | unstated
deriving DecidableEq, Repr

/-- One side effect of an access to a CSR, as CSR_MAP declares it: its trigger, the CSR it acts on, the change. The
spec says that a row declares whether accesses have side effects (R35) and that they belong to the row
(spec/93_implementation_defined.md U26); this form of them is a DESIGN CHOICE: notes/assumptions/5.md. -/
structure CsrEffect where
  trigger : CsrTrigger
  target : CsrAddr
  change : CsrChange
deriving DecidableEq, Repr

/-- One row of CSR_MAP (R35, R207, D6): the address of an implemented CSR, its reset value, the mask of its
writable bits, and the side effects of reading and writing it, if any. -/
structure CsrDecl where
  addr : CsrAddr
  resetValue : Word
  writable : Word
  effects : List CsrEffect
deriving DecidableEq, Repr

/-- R35: a plain register, all 32 bits writable and no side effects. -/
abbrev CsrDecl.plain (d : CsrDecl) : Prop := d.writable = BitVec.allOnes 32 ∧ d.effects = []

/-- The open parameters of R8. CSR_MAP is not among them: its rows stand in `State.csrs`, each beside the
register's value, so that an implemented CSR has one home. -/
structure Params where
  byteOrder : ByteOrder
  memMap : List Region
  storeRs2 : StoreRs2Field
  spUimm : SpUimmDecode
  spAdjust : SpAutoAdjust
  popRd : PopRdField
  /-- RESET_REGS: the values of x[1] to x[31] after reset; the entry for x[0] is not read (R45) -/
  resetRegs : Vector Word 32
deriving DecidableEq, Repr

/-- The default MEM_MAP: all 2^32 bytes are plain memory (R8, R59). -/
def allMemory : List Region := [⟨0, 4294967296, .memory⟩]

/-- The defaults of R8. RESET_REGS is the exception: the spec's default is "no value"; every register of this
model holds one, and zero is the model's. DESIGN CHOICE, unsafe: notes/assumptions/1.md. -/
def Params.default : Params where
  byteOrder := .little
  memMap := allMemory
  storeRs2 := .ir24to20
  spUimm := .cSwsp
  spAdjust := .unchanged
  popRd := .ir6to2
  resetRegs := Vector.replicate 32 0#32

/-- The default CSR_MAP: no CSR is implemented (R35, R207, D6). -/
def noCsrs : List CsrDecl := []

/-- One access that the platform's devices see: a read of a region whose reads have side effects, or a write. The
address, the width and, for a write, the value, zero-extended (R57, R58). -/
inductive DeviceEvent where
  | read (addr : Word) (width : Width)
  | write (addr : Word) (width : Width) (value : Word)
deriving DecidableEq, Repr

/-- A value the spec leaves open: x[2] after an LWSP with rd = 2 that also moves the stack pointer (R223), and a CSR
after a side effect that CSR_MAP declares without its result. It has no body, so nothing can be proved of it.
`State.free` counts the values used so far. Safe: notes/assumptions/5.md, 6.md. -/
opaque freeWord : Nat → Word

/-- The byte that a device gives at an address: a free value, which may depend on every access the devices have seen
and is fresh at each read. It has no body. Safe: notes/assumptions/11.md. -/
opaque deviceByte : List DeviceEvent → Nat → Word → Byte

end Sys2Proof.Config
end

