-- ==== Sys2Proof/Syntax.lean ====
section
/-! DEFINITION. The instructions: one constructor per row of spec/opcode_table.json (spec/30_encoding.md R101),
46 in all. An operand is the field as the instruction word carries it, before any parameter of spec/00_scope.md
R8 is applied: decoding depends on the word alone (R80, R108), and Machine/Operands.lean reads the fields under
the parameters. -/

namespace Sys2Proof

inductive Instr where
  -- U format, `imm = IR[31:12]` (R87); spec/40_upper_immediate.md
  | lui (rd : Reg) (imm : BitVec 20)
  | auipc (rd : Reg) (imm : BitVec 20)
  -- J format, a 21-bit offset whose bit 0 is 0 (R88, R95), and JALR in I format (R83); spec/41_jumps.md
  | jal (rd : Reg) (offset : BitVec 21)
  | jalr (rd rs1 : Reg) (imm : BitVec 12)
  -- B format, a 13-bit offset whose bit 0 is 0 (R86, R93); spec/42_branches.md
  | beq (rs1 rs2 : Reg) (offset : BitVec 13)
  | bne (rs1 rs2 : Reg) (offset : BitVec 13)
  | blt (rs1 rs2 : Reg) (offset : BitVec 13)
  | bge (rs1 rs2 : Reg) (offset : BitVec 13)
  | bltu (rs1 rs2 : Reg) (offset : BitVec 13)
  | bgeu (rs1 rs2 : Reg) (offset : BitVec 13)
  -- I format loads (R83, R150); spec/43_loads.md
  | lb (rd rs1 : Reg) (offset : BitVec 12)
  | lh (rd rs1 : Reg) (offset : BitVec 12)
  | lw (rd rs1 : Reg) (offset : BitVec 12)
  | lbu (rd rs1 : Reg) (offset : BitVec 12)
  | lhu (rd rs1 : Reg) (offset : BitVec 12)
  -- the processor's own S format (R85, R160): `offset = IR[31:20]`, whose low five bits are also `IR[24:20]`,
  -- and `low = IR[11:7]`, which names the data register in the alternative reading only; spec/44_stores.md
  | sb (rs1 : Reg) (offset : BitVec 12) (low : BitVec 5)
  | sh (rs1 : Reg) (offset : BitVec 12) (low : BitVec 5)
  | sw (rs1 : Reg) (offset : BitVec 12) (low : BitVec 5)
  -- I format arithmetic (R83); spec/45_op_imm.md
  | addi (rd rs1 : Reg) (imm : BitVec 12)
  | slti (rd rs1 : Reg) (imm : BitVec 12)
  | sltiu (rd rs1 : Reg) (imm : BitVec 12)
  | xori (rd rs1 : Reg) (imm : BitVec 12)
  | ori (rd rs1 : Reg) (imm : BitVec 12)
  | andi (rd rs1 : Reg) (imm : BitVec 12)
  -- I format shifts, the six bits `shamt = IR[25:20]` of which bit 5 must be 0 (R84, R96, R180)
  | slli (rd rs1 : Reg) (shamt : BitVec 6)
  | srli (rd rs1 : Reg) (shamt : BitVec 6)
  | srai (rd rs1 : Reg) (shamt : BitVec 6)
  -- R format (R82); spec/46_op_reg.md
  | add (rd rs1 rs2 : Reg)
  | sub (rd rs1 rs2 : Reg)
  | sll (rd rs1 rs2 : Reg)
  | slt (rd rs1 rs2 : Reg)
  | sltu (rd rs1 rs2 : Reg)
  | xor (rd rs1 rs2 : Reg)
  | srl (rd rs1 rs2 : Reg)
  | sra (rd rs1 rs2 : Reg)
  | or (rd rs1 rs2 : Reg)
  | and (rd rs1 rs2 : Reg)
  -- CSR variant of the I format (R89); spec/47_csr.md
  | csrrw (rd : Reg) (csr : CsrAddr) (rs1 : Reg)
  | csrrs (rd : Reg) (csr : CsrAddr) (rs1 : Reg)
  | csrrc (rd : Reg) (csr : CsrAddr) (rs1 : Reg)
  | csrrwi (rd : Reg) (csr : CsrAddr) (zimm : BitVec 5)
  | csrrsi (rd : Reg) (csr : CsrAddr) (zimm : BitVec 5)
  | csrrci (rd : Reg) (csr : CsrAddr) (zimm : BitVec 5)
  -- spec/48_mul.md
  | mul (rd rs1 rs2 : Reg)
  -- PUSH/POP format (R90): `uimm = IR[12:7]` and `reg = IR[6:2]`, both as the word has them;
  -- spec/49_stack_push_pop.md
  | swsp (uimm : BitVec 6) (reg : BitVec 5)
  | lwsp (uimm : BitVec 6) (reg : BitVec 5)
deriving DecidableEq, Repr

end Sys2Proof
end

