-- ==== Sys2Proof/Decode.lean ====
section
/-! DEFINITION. The decoder and the encoder (spec/30_encoding.md). Decoding is total: a word is one of the 46
instructions or illegal, and an illegal word says which class of R103 it falls in. The bit-field and byte-order
helpers they use stand here too. -/

namespace Sys2Proof

/-- The field of `len` bits whose lowest bit is bit `lo`: `w[lo + len - 1 : lo]` in the notation of R9. -/
def bits (w : Word) (lo len : Nat) : BitVec len := w.extractLsb' lo len

/-! The fields common to the 32-bit formats (R81). -/

def fOpcode (w : Word) : BitVec 7 := bits w 0 7
def fRd (w : Word) : Reg := bits w 7 5
def fFunct3 (w : Word) : BitVec 3 := bits w 12 3
def fRs1 (w : Word) : Reg := bits w 15 5
def fRs2 (w : Word) : Reg := bits w 20 5
def fFunct7 (w : Word) : BitVec 7 := bits w 25 7

/-! The immediates and the other operand fields, as the word has them (R91 to R98). -/

/-- `IR[31:20]`: the I-format immediate, the store offset and the CSR address (R91, R92, R97). -/
def fImm12 (w : Word) : BitVec 12 := bits w 20 12

/-- `IR[31:12]` (R94). -/
def fImm20 (w : Word) : BitVec 20 := bits w 12 20

/-- The B-format offset, 13 bits with bit 0 clear (R93). -/
def fOffsetB (w : Word) : BitVec 13 := bits w 31 1 ++ bits w 7 1 ++ bits w 25 6 ++ bits w 8 4 ++ 0#1

/-- The J-format offset, 21 bits with bit 0 clear (R95). -/
def fOffsetJ (w : Word) : BitVec 21 := bits w 31 1 ++ bits w 12 8 ++ bits w 20 1 ++ bits w 21 10 ++ 0#1

/-- `IR[25:20]`, the six bits of an immediate shift amount (R84, R96). -/
def fShamt (w : Word) : BitVec 6 := bits w 20 6

/-- `IR[12:7]`, the `uimm` field of the PUSH/POP format (R90). -/
def fUimm (w : Word) : BitVec 6 := bits w 7 6

/-- `IR[6:2]`, the register field of the PUSH/POP format (R90). -/
def fReg (w : Word) : BitVec 5 := bits w 2 5

/-- `IR[15:13]`, funct3 of the PUSH/POP format (R90). -/
def fStackFunct3 (w : Word) : BitVec 3 := bits w 13 3

/-- Why a word is no instruction: the classes of R103. -/
inductive Illegal where
  /-- `IR[1:0]` is 00 or 01 -/
  | quadrant
  /-- `IR[1:0] = 10` and `IR[31:16]` is not 0 -/
  | stackUpper
  /-- `IR[1:0] = 10` and `IR[15:13]` is neither 110 nor 010 -/
  | stackFunct3
  /-- an opcode ending in 11 that no instruction has -/
  | opcode
  /-- a listed opcode with an unlisted funct3 -/
  | funct3
  /-- a listed opcode and funct3 with an unlisted funct7; a shift with `IR[25] = 1` is one (R180) -/
  | funct7
  /-- fewer or more than the four bytes of an instruction's slot (R80) -/
  | length
deriving DecidableEq, Repr

/-- The entry that a code selects among the codes a format lists; with none, the word is illegal. -/
def select {n : Nat} {α : Type} (code : BitVec n) (why : Illegal) : List (BitVec n × α) → Except Illegal α
  | [] => .error why
  | (c, a) :: rest => if code = c then .ok a else select code why rest

/-- Opcode 1100011 (R86, R101). -/
def decodeBranch (w : Word) : Except Illegal Instr :=
  select (fFunct3 w) .funct3
    [(0b000#3, .beq (fRs1 w) (fRs2 w) (fOffsetB w)), (0b001#3, .bne (fRs1 w) (fRs2 w) (fOffsetB w)),
     (0b100#3, .blt (fRs1 w) (fRs2 w) (fOffsetB w)), (0b101#3, .bge (fRs1 w) (fRs2 w) (fOffsetB w)),
     (0b110#3, .bltu (fRs1 w) (fRs2 w) (fOffsetB w)), (0b111#3, .bgeu (fRs1 w) (fRs2 w) (fOffsetB w))]

/-- Opcode 0000011 (R83, R101). -/
def decodeLoad (w : Word) : Except Illegal Instr :=
  select (fFunct3 w) .funct3
    [(0b000#3, .lb (fRd w) (fRs1 w) (fImm12 w)), (0b001#3, .lh (fRd w) (fRs1 w) (fImm12 w)),
     (0b010#3, .lw (fRd w) (fRs1 w) (fImm12 w)), (0b100#3, .lbu (fRd w) (fRs1 w) (fImm12 w)),
     (0b101#3, .lhu (fRd w) (fRs1 w) (fImm12 w))]

/-- Opcode 0100011, the processor's own S format (R85, R101). -/
def decodeStore (w : Word) : Except Illegal Instr :=
  select (fFunct3 w) .funct3
    [(0b000#3, .sb (fRs1 w) (fImm12 w) (fRd w)), (0b001#3, .sh (fRs1 w) (fImm12 w) (fRd w)),
     (0b010#3, .sw (fRs1 w) (fImm12 w) (fRd w))]

/-- Opcode 0010011 (R83, R84, R101). The shifts are admitted only with their canonical `IR[31:25]`, so with
`IR[25] = 0` (R100, R180). -/
def decodeOpImm (w : Word) : Except Illegal Instr :=
  if fFunct3 w = 0b001#3 then
    select (fFunct7 w) .funct7 [(0b0000000#7, .slli (fRd w) (fRs1 w) (fShamt w))]
  else if fFunct3 w = 0b101#3 then
    select (fFunct7 w) .funct7
      [(0b0000000#7, .srli (fRd w) (fRs1 w) (fShamt w)), (0b0100000#7, .srai (fRd w) (fRs1 w) (fShamt w))]
  else
    select (fFunct3 w) .funct3
      [(0b000#3, .addi (fRd w) (fRs1 w) (fImm12 w)), (0b010#3, .slti (fRd w) (fRs1 w) (fImm12 w)),
       (0b011#3, .sltiu (fRd w) (fRs1 w) (fImm12 w)), (0b100#3, .xori (fRd w) (fRs1 w) (fImm12 w)),
       (0b110#3, .ori (fRd w) (fRs1 w) (fImm12 w)), (0b111#3, .andi (fRd w) (fRs1 w) (fImm12 w))]

/-- Opcode 0110011: the ten register-register instructions and MUL, by funct7 and funct3 (R82, R101). -/
def decodeOpReg (w : Word) : Except Illegal Instr :=
  select (fFunct7 w ++ fFunct3 w : BitVec 10) .funct7
    [(0b0000000000#10, .add (fRd w) (fRs1 w) (fRs2 w)), (0b0100000000#10, .sub (fRd w) (fRs1 w) (fRs2 w)),
     (0b0000000001#10, .sll (fRd w) (fRs1 w) (fRs2 w)), (0b0000000010#10, .slt (fRd w) (fRs1 w) (fRs2 w)),
     (0b0000000011#10, .sltu (fRd w) (fRs1 w) (fRs2 w)), (0b0000000100#10, .xor (fRd w) (fRs1 w) (fRs2 w)),
     (0b0000000101#10, .srl (fRd w) (fRs1 w) (fRs2 w)), (0b0100000101#10, .sra (fRd w) (fRs1 w) (fRs2 w)),
     (0b0000000110#10, .or (fRd w) (fRs1 w) (fRs2 w)), (0b0000000111#10, .and (fRd w) (fRs1 w) (fRs2 w)),
     (0b0000001000#10, .mul (fRd w) (fRs1 w) (fRs2 w))]

/-- Opcode 1110011: the six CSR forms only (R89, R101). -/
def decodeSystem (w : Word) : Except Illegal Instr :=
  select (fFunct3 w) .funct3
    [(0b001#3, .csrrw (fRd w) (fImm12 w) (fRs1 w)), (0b010#3, .csrrs (fRd w) (fImm12 w) (fRs1 w)),
     (0b011#3, .csrrc (fRd w) (fImm12 w) (fRs1 w)), (0b101#3, .csrrwi (fRd w) (fImm12 w) (fRs1 w)),
     (0b110#3, .csrrsi (fRd w) (fImm12 w) (fRs1 w)), (0b111#3, .csrrci (fRd w) (fImm12 w) (fRs1 w))]

/-- The PUSH/POP format, in the low half of a word whose upper half is 0 (R90, R108 step 1). -/
def decodeStack (w : Word) : Except Illegal Instr :=
  if bits w 16 16 = 0#16 then
    select (fStackFunct3 w) .stackFunct3 [(0b110#3, .swsp (fUimm w) (fReg w)), (0b010#3, .lwsp (fUimm w) (fReg w))]
  else .error .stackUpper

/-- The formats of 32 bits, by opcode (R108 step 3). -/
def decodeWide (w : Word) : Except Illegal Instr :=
  if fOpcode w = 0b0110111#7 then .ok (.lui (fRd w) (fImm20 w))
  else if fOpcode w = 0b0010111#7 then .ok (.auipc (fRd w) (fImm20 w))
  else if fOpcode w = 0b1101111#7 then .ok (.jal (fRd w) (fOffsetJ w))
  else if fOpcode w = 0b1100111#7 then
    select (fFunct3 w) .funct3 [(0b000#3, .jalr (fRd w) (fRs1 w) (fImm12 w))]
  else if fOpcode w = 0b1100011#7 then decodeBranch w
  else if fOpcode w = 0b0000011#7 then decodeLoad w
  else if fOpcode w = 0b0100011#7 then decodeStore w
  else if fOpcode w = 0b0010011#7 then decodeOpImm w
  else if fOpcode w = 0b0110011#7 then decodeOpReg w
  else if fOpcode w = 0b1110011#7 then decodeSystem w
  else .error .opcode

/-- R108: the instruction that a word is, or the class of illegal words it falls in. -/
def decode (w : Word) : Except Illegal Instr :=
  if bits w 0 2 = 0b10#2 then decodeStack w
  else if bits w 0 2 = 0b11#2 then decodeWide w
  else .error .quadrant

/-! ## Byte order (R51) -/

/-- The halfword whose bytes, in order of rising address, are `b0` and `b1`. -/
def joinHalf : Config.ByteOrder → Byte → Byte → Half
  | .little, b0, b1 => b1 ++ b0
  | .big, b0, b1 => b0 ++ b1

/-- The word whose bytes, in order of rising address, are `b0` to `b3`. -/
def joinWord : Config.ByteOrder → Byte → Byte → Byte → Byte → Word
  | .little, b0, b1, b2, b3 => b3 ++ b2 ++ b1 ++ b0
  | .big, b0, b1, b2, b3 => b0 ++ b1 ++ b2 ++ b3

/-- Byte `k` of a halfword, counted from the lowest address. -/
def byteOfHalf (o : Config.ByteOrder) (v : Half) (k : Nat) : Byte :=
  match o with
  | .little => v.extractLsb' (8 * k) 8
  | .big => v.extractLsb' (8 * (1 - k)) 8

/-- Byte `k` of a word, counted from the lowest address. -/
def byteOfWord (o : Config.ByteOrder) (v : Word) (k : Nat) : Byte :=
  match o with
  | .little => v.extractLsb' (8 * k) 8
  | .big => v.extractLsb' (8 * (3 - k)) 8

/-- The decoder on bytes, in order of rising address: total on any list of them (R55, R80). -/
def decodeBytes (o : Config.ByteOrder) : List Byte → Except Illegal Instr
  | [b0, b1, b2, b3] => decode (joinWord o b0 b1 b2 b3)
  | _ => .error .length

/-- The word of an opcode-table row of `nbits` bits (R80: an instruction has 32), the bits above `nbits` zero. -/
def tableWord (nbits w : Nat) : Word := BitVec.ofNat 32 (w % 2 ^ nbits)

/-- What the decoder reads from an opcode-table word whose bytes lie in memory in the default byte order. -/
def decodeTableWord (nbits w : Nat) : Option Instr :=
  let v := tableWord nbits w
  (decodeBytes .little
    [byteOfWord .little v 0, byteOfWord .little v 1, byteOfWord .little v 2, byteOfWord .little v 3]).toOption

/-! ## The encoder, format by format -/

/-- R format (R82). -/
def encR (f7 : BitVec 7) (rs2 rs1 : Reg) (f3 : BitVec 3) (rd : Reg) (op : BitVec 7) : Word :=
  f7 ++ rs2 ++ rs1 ++ f3 ++ rd ++ op

/-- I format, with the CSR variant and the processor's own S format, which lay out their fields alike
(R83, R85, R89). -/
def encI (imm : BitVec 12) (rs1 : Reg) (f3 : BitVec 3) (rd : Reg) (op : BitVec 7) : Word :=
  imm ++ rs1 ++ f3 ++ rd ++ op

/-- I format, shift variant: `IR[31:26]` and the six bits of shamt (R84). -/
def encShift (upper : BitVec 6) (shamt : BitVec 6) (rs1 : Reg) (f3 : BitVec 3) (rd : Reg) : Word :=
  upper ++ shamt ++ rs1 ++ f3 ++ rd ++ 0b0010011#7

/-- B format (R86). -/
def encB (offset : BitVec 13) (rs2 rs1 : Reg) (f3 : BitVec 3) : Word :=
  offset.extractLsb' 12 1 ++ offset.extractLsb' 5 6 ++ rs2 ++ rs1 ++ f3 ++ offset.extractLsb' 1 4 ++
    offset.extractLsb' 11 1 ++ 0b1100011#7

/-- U format (R87). -/
def encU (imm : BitVec 20) (rd : Reg) (op : BitVec 7) : Word := imm ++ rd ++ op

/-- J format (R88). -/
def encJ (offset : BitVec 21) (rd : Reg) : Word :=
  offset.extractLsb' 20 1 ++ offset.extractLsb' 1 10 ++ offset.extractLsb' 11 1 ++ offset.extractLsb' 12 8 ++
    rd ++ 0b1101111#7

/-- The PUSH/POP format (R90). -/
def encStack (f3 : BitVec 3) (uimm : BitVec 6) (reg : BitVec 5) : Word :=
  0#16 ++ f3 ++ uimm ++ reg ++ 0b10#2

/-- The word of an instruction (R101). -/
def encode : Instr → Word
  | .lui rd imm => encU imm rd 0b0110111#7
  | .auipc rd imm => encU imm rd 0b0010111#7
  | .jal rd offset => encJ offset rd
  | .jalr rd rs1 imm => encI imm rs1 0b000#3 rd 0b1100111#7
  | .beq rs1 rs2 offset => encB offset rs2 rs1 0b000#3
  | .bne rs1 rs2 offset => encB offset rs2 rs1 0b001#3
  | .blt rs1 rs2 offset => encB offset rs2 rs1 0b100#3
  | .bge rs1 rs2 offset => encB offset rs2 rs1 0b101#3
  | .bltu rs1 rs2 offset => encB offset rs2 rs1 0b110#3
  | .bgeu rs1 rs2 offset => encB offset rs2 rs1 0b111#3
  | .lb rd rs1 offset => encI offset rs1 0b000#3 rd 0b0000011#7
  | .lh rd rs1 offset => encI offset rs1 0b001#3 rd 0b0000011#7
  | .lw rd rs1 offset => encI offset rs1 0b010#3 rd 0b0000011#7
  | .lbu rd rs1 offset => encI offset rs1 0b100#3 rd 0b0000011#7
  | .lhu rd rs1 offset => encI offset rs1 0b101#3 rd 0b0000011#7
  | .sb rs1 offset low => encI offset rs1 0b000#3 low 0b0100011#7
  | .sh rs1 offset low => encI offset rs1 0b001#3 low 0b0100011#7
  | .sw rs1 offset low => encI offset rs1 0b010#3 low 0b0100011#7
  | .addi rd rs1 imm => encI imm rs1 0b000#3 rd 0b0010011#7
  | .slti rd rs1 imm => encI imm rs1 0b010#3 rd 0b0010011#7
  | .sltiu rd rs1 imm => encI imm rs1 0b011#3 rd 0b0010011#7
  | .xori rd rs1 imm => encI imm rs1 0b100#3 rd 0b0010011#7
  | .ori rd rs1 imm => encI imm rs1 0b110#3 rd 0b0010011#7
  | .andi rd rs1 imm => encI imm rs1 0b111#3 rd 0b0010011#7
  | .slli rd rs1 shamt => encShift 0b000000#6 shamt rs1 0b001#3 rd
  | .srli rd rs1 shamt => encShift 0b000000#6 shamt rs1 0b101#3 rd
  | .srai rd rs1 shamt => encShift 0b010000#6 shamt rs1 0b101#3 rd
  | .add rd rs1 rs2 => encR 0b0000000#7 rs2 rs1 0b000#3 rd 0b0110011#7
  | .sub rd rs1 rs2 => encR 0b0100000#7 rs2 rs1 0b000#3 rd 0b0110011#7
  | .sll rd rs1 rs2 => encR 0b0000000#7 rs2 rs1 0b001#3 rd 0b0110011#7
  | .slt rd rs1 rs2 => encR 0b0000000#7 rs2 rs1 0b010#3 rd 0b0110011#7
  | .sltu rd rs1 rs2 => encR 0b0000000#7 rs2 rs1 0b011#3 rd 0b0110011#7
  | .xor rd rs1 rs2 => encR 0b0000000#7 rs2 rs1 0b100#3 rd 0b0110011#7
  | .srl rd rs1 rs2 => encR 0b0000000#7 rs2 rs1 0b101#3 rd 0b0110011#7
  | .sra rd rs1 rs2 => encR 0b0100000#7 rs2 rs1 0b101#3 rd 0b0110011#7
  | .or rd rs1 rs2 => encR 0b0000000#7 rs2 rs1 0b110#3 rd 0b0110011#7
  | .and rd rs1 rs2 => encR 0b0000000#7 rs2 rs1 0b111#3 rd 0b0110011#7
  | .csrrw rd csr rs1 => encI csr rs1 0b001#3 rd 0b1110011#7
  | .csrrs rd csr rs1 => encI csr rs1 0b010#3 rd 0b1110011#7
  | .csrrc rd csr rs1 => encI csr rs1 0b011#3 rd 0b1110011#7
  | .csrrwi rd csr zimm => encI csr zimm 0b101#3 rd 0b1110011#7
  | .csrrsi rd csr zimm => encI csr zimm 0b110#3 rd 0b1110011#7
  | .csrrci rd csr zimm => encI csr zimm 0b111#3 rd 0b1110011#7
  | .mul rd rs1 rs2 => encR 0b0000001#7 rs2 rs1 0b000#3 rd 0b0110011#7
  | .swsp uimm reg => encStack 0b110#3 uimm reg
  | .lwsp uimm reg => encStack 0b010#3 uimm reg

/-! ## The opcode map (R101), as masks and patterns -/

/-- One row of the opcode map: a word is the instruction when its masked bits are the pattern (R100). -/
structure OpRow where
  mnemonic : String
  mask : Word
  pattern : Word
deriving DecidableEq, Repr

/-- The 46 rows of R101. -/
def opcodeMap : List OpRow :=
  [⟨"LUI", 0x0000007F#32, 0x00000037#32⟩,
   ⟨"AUIPC", 0x0000007F#32, 0x00000017#32⟩,
   ⟨"JAL", 0x0000007F#32, 0x0000006F#32⟩,
   ⟨"JALR", 0x0000707F#32, 0x00000067#32⟩]
  ++ [⟨"BEQ", 0x0000707F#32, 0x00000063#32⟩,
   ⟨"BNE", 0x0000707F#32, 0x00001063#32⟩,
   ⟨"BLT", 0x0000707F#32, 0x00004063#32⟩,
   ⟨"BGE", 0x0000707F#32, 0x00005063#32⟩,
   ⟨"BLTU", 0x0000707F#32, 0x00006063#32⟩,
   ⟨"BGEU", 0x0000707F#32, 0x00007063#32⟩]
  ++ [⟨"LB", 0x0000707F#32, 0x00000003#32⟩,
   ⟨"LH", 0x0000707F#32, 0x00001003#32⟩,
   ⟨"LW", 0x0000707F#32, 0x00002003#32⟩,
   ⟨"LBU", 0x0000707F#32, 0x00004003#32⟩,
   ⟨"LHU", 0x0000707F#32, 0x00005003#32⟩]
  ++ [⟨"SB", 0x0000707F#32, 0x00000023#32⟩,
   ⟨"SH", 0x0000707F#32, 0x00001023#32⟩,
   ⟨"SW", 0x0000707F#32, 0x00002023#32⟩]
  ++ [⟨"ADDI", 0x0000707F#32, 0x00000013#32⟩,
   ⟨"SLTI", 0x0000707F#32, 0x00002013#32⟩,
   ⟨"SLTIU", 0x0000707F#32, 0x00003013#32⟩,
   ⟨"XORI", 0x0000707F#32, 0x00004013#32⟩,
   ⟨"ORI", 0x0000707F#32, 0x00006013#32⟩,
   ⟨"ANDI", 0x0000707F#32, 0x00007013#32⟩,
   ⟨"SLLI", 0xFE00707F#32, 0x00001013#32⟩,
   ⟨"SRLI", 0xFE00707F#32, 0x00005013#32⟩,
   ⟨"SRAI", 0xFE00707F#32, 0x40005013#32⟩]
  ++ [⟨"ADD", 0xFE00707F#32, 0x00000033#32⟩,
   ⟨"SUB", 0xFE00707F#32, 0x40000033#32⟩,
   ⟨"SLL", 0xFE00707F#32, 0x00001033#32⟩,
   ⟨"SLT", 0xFE00707F#32, 0x00002033#32⟩,
   ⟨"SLTU", 0xFE00707F#32, 0x00003033#32⟩,
   ⟨"XOR", 0xFE00707F#32, 0x00004033#32⟩,
   ⟨"SRL", 0xFE00707F#32, 0x00005033#32⟩,
   ⟨"SRA", 0xFE00707F#32, 0x40005033#32⟩,
   ⟨"OR", 0xFE00707F#32, 0x00006033#32⟩,
   ⟨"AND", 0xFE00707F#32, 0x00007033#32⟩,
   ⟨"MUL", 0xFE00707F#32, 0x02000033#32⟩]
  ++ [⟨"CSRRW", 0x0000707F#32, 0x00001073#32⟩,
   ⟨"CSRRS", 0x0000707F#32, 0x00002073#32⟩,
   ⟨"CSRRC", 0x0000707F#32, 0x00003073#32⟩,
   ⟨"CSRRWI", 0x0000707F#32, 0x00005073#32⟩,
   ⟨"CSRRSI", 0x0000707F#32, 0x00006073#32⟩,
   ⟨"CSRRCI", 0x0000707F#32, 0x00007073#32⟩]
  ++ [⟨"SWSP", 0xFFFFE003#32, 0x0000C002#32⟩,
   ⟨"LWSP", 0xFFFFE003#32, 0x00004002#32⟩]

/-- The mnemonic of an instruction's row in R101. -/
def Instr.mnemonic : Instr → String
  | .lui _ _ => "LUI"
  | .auipc _ _ => "AUIPC"
  | .jal _ _ => "JAL"
  | .jalr _ _ _ => "JALR"
  | .beq _ _ _ => "BEQ"
  | .bne _ _ _ => "BNE"
  | .blt _ _ _ => "BLT"
  | .bge _ _ _ => "BGE"
  | .bltu _ _ _ => "BLTU"
  | .bgeu _ _ _ => "BGEU"
  | .lb _ _ _ => "LB"
  | .lh _ _ _ => "LH"
  | .lw _ _ _ => "LW"
  | .lbu _ _ _ => "LBU"
  | .lhu _ _ _ => "LHU"
  | .sb _ _ _ => "SB"
  | .sh _ _ _ => "SH"
  | .sw _ _ _ => "SW"
  | .addi _ _ _ => "ADDI"
  | .slti _ _ _ => "SLTI"
  | .sltiu _ _ _ => "SLTIU"
  | .xori _ _ _ => "XORI"
  | .ori _ _ _ => "ORI"
  | .andi _ _ _ => "ANDI"
  | .slli _ _ _ => "SLLI"
  | .srli _ _ _ => "SRLI"
  | .srai _ _ _ => "SRAI"
  | .add _ _ _ => "ADD"
  | .sub _ _ _ => "SUB"
  | .sll _ _ _ => "SLL"
  | .slt _ _ _ => "SLT"
  | .sltu _ _ _ => "SLTU"
  | .xor _ _ _ => "XOR"
  | .srl _ _ _ => "SRL"
  | .sra _ _ _ => "SRA"
  | .or _ _ _ => "OR"
  | .and _ _ _ => "AND"
  | .csrrw _ _ _ => "CSRRW"
  | .csrrs _ _ _ => "CSRRS"
  | .csrrc _ _ _ => "CSRRC"
  | .csrrwi _ _ _ => "CSRRWI"
  | .csrrsi _ _ _ => "CSRRSI"
  | .csrrci _ _ _ => "CSRRCI"
  | .mul _ _ _ => "MUL"
  | .swsp _ _ => "SWSP"
  | .lwsp _ _ => "LWSP"

end Sys2Proof
end

