-- ==== Sys2Proof/Machine/Flags.lean ====
section
/-! DEFINITION. Conditions and status bits. The processor has no flag that a program can read (spec/10_state.md
R29): the branches and the set-less-than instructions are defined by their own comparisons (spec/42_branches.md
R141 to R146, spec/46_op_reg.md R196 (d)), which stand first. The four status bits that the ALU sends to the
control unit follow; no instruction reads them. -/

namespace Sys2Proof.Machine

/-- R141. -/
def condEq (a b : Word) : Bool := a == b

/-- R142. -/
def condNe (a b : Word) : Bool := a != b

/-- R143: signed, on the mathematical values. -/
def condLt (a b : Word) : Bool := decide (a.toInt < b.toInt)

/-- R144: signed greater than or equal. -/
def condGe (a b : Word) : Bool := decide (b.toInt ≤ a.toInt)

/-- R145: unsigned. -/
def condLtu (a b : Word) : Bool := decide (a.toNat < b.toNat)

/-- R146: unsigned greater than or equal. -/
def condGeu (a b : Word) : Bool := decide (b.toNat ≤ a.toNat)

/-- R172, R173, R189, R190: the 32-bit value 1 or 0 that a set-less-than instruction writes. -/
def boolWord (c : Bool) : Word := if c then 1#32 else 0#32

/-- R29: the status bits of an ALU operation that has ended, on the signal `ALU_Control`. -/
structure AluStatus where
  /-- bit 0: the operation has ended -/
  done : Bool
  /-- bit 1: the result is zero -/
  zero : Bool
  /-- bit 2: the sign bit of the result -/
  sign : Bool
  /-- bit 3: the carry of the result -/
  carry : Bool
deriving DecidableEq, Repr

/-- The status bits of the adder block at the end of `a + b`. -/
def addStatus (a b : Word) : AluStatus where
  done := true
  zero := a + b == 0#32
  sign := (a + b).msb
  carry := decide (4294967296 ≤ a.toNat + b.toNat)

/-- The status bits of the adder block at the end of `a - b`, which it computes as the sum of `a` and the two's
complement of `b` (R187, R196 (b)). DEDUCED, safe (no instruction reads them): notes/assumptions/8.md. -/
def subStatus (a b : Word) : AluStatus := addStatus a (-b)

end Sys2Proof.Machine
end

