-- ==== Sys2Proof/Machine/Operands.lean ====
section
/-! DEFINITION. The operand forms (spec/30_encoding.md section 4): what an instruction's fields mean as values
and register numbers, under the parameters of spec/00_scope.md R8 where a form depends on one. -/

namespace Sys2Proof.Machine

open Sys2Proof.Config

/-- R91, R92: the I-format immediate and the store offset, sign-extended. -/
def immI (imm : BitVec 12) : Word := imm.signExtend 32

/-- R93: a branch offset, sign-extended. -/
def offsetB (offset : BitVec 13) : Word := offset.signExtend 32

/-- R94: the U-format immediate, in bits 31 to 12 over zeros. -/
def immU (imm : BitVec 20) : Word := imm ++ 0#12

/-- R95: a JAL offset, sign-extended. -/
def offsetJ (offset : BitVec 21) : Word := offset.signExtend 32

/-- R96: an immediate shift amount, 0 to 31: the low five bits of the field. -/
def shamtAmount (shamt : BitVec 6) : Nat := (shamt.extractLsb' 0 5).toNat

/-- R96: a register shift amount, the five low bits of the register. -/
def regAmount (v : Word) : Nat := (v.extractLsb' 0 5).toNat

/-- R97: the immediate of the CSR forms, zero-extended. -/
def immZ (zimm : BitVec 5) : Word := zimm.zeroExtend 32

/-- R160: the number of a store's data register, from `IR[31:20]` and `IR[11:7]`. -/
def storeRs2 (p : Params) (offset : BitVec 12) (low : BitVec 5) : Reg :=
  match p.storeRs2 with
  | .ir24to20 => offset.extractLsb' 0 5
  | .ir11to7 => low

/-- R98: the displacement of SWSP, from `IR[12:7]`. -/
def pushUimm (p : Params) (uimm : BitVec 6) : Word :=
  match p.spUimm with
  | .cSwsp => (uimm.extractLsb' 0 2 ++ uimm.extractLsb' 2 4 ++ 0#2 : BitVec 8).zeroExtend 32
  | .plain => uimm.zeroExtend 32

/-- R222: the destination of LWSP, from `IR[12:7]` and `IR[6:2]`. -/
def popRd (p : Params) (uimm : BitVec 6) (reg : BitVec 5) : Reg :=
  match p.popRd with
  | .ir6to2 => reg
  | .ir11to7 => uimm.extractLsb' 0 5

/-- R98, R222: the displacement of LWSP. With the destination in `IR[6:2]` it is SWSP's. With the destination in
`IR[11:7]` the six offset bits are `IR[12]` and `IR[6:2]`, laid out as C.LWSP has them or, under the plain
decoding, as they stand. PRESUMED, unsafe under that parameter value alone: notes/assumptions/7.md. -/
def popUimm (p : Params) (uimm : BitVec 6) (reg : BitVec 5) : Word :=
  match p.popRd, p.spUimm with
  | .ir6to2, _ => pushUimm p uimm
  | .ir11to7, .cSwsp =>
    (reg.extractLsb' 0 2 ++ uimm.extractLsb' 5 1 ++ reg.extractLsb' 2 3 ++ 0#2 : BitVec 8).zeroExtend 32
  | .ir11to7, .plain => (uimm.extractLsb' 5 1 ++ reg : BitVec 6).zeroExtend 32

/-- R223: the stack pointer that SWSP's address starts from. -/
def pushBase (p : Params) (sp : Word) : Word :=
  match p.spAdjust with
  | .unchanged => sp
  | .pushPredecPopPostinc => sp - 4#32
  | .pushPostdecPopPreinc => sp

/-- R223: the stack pointer after SWSP. -/
def pushSp (p : Params) (sp : Word) : Word :=
  match p.spAdjust with
  | .unchanged => sp
  | .pushPredecPopPostinc => sp - 4#32
  | .pushPostdecPopPreinc => sp - 4#32

/-- R223: the stack pointer that LWSP's address starts from. -/
def popBase (p : Params) (sp : Word) : Word :=
  match p.spAdjust with
  | .unchanged => sp
  | .pushPredecPopPostinc => sp
  | .pushPostdecPopPreinc => sp + 4#32

/-- R223: the stack pointer after LWSP, unless the load writes it. -/
def popSp (p : Params) (sp : Word) : Word :=
  match p.spAdjust with
  | .unchanged => sp
  | .pushPredecPopPostinc => sp + 4#32
  | .pushPostdecPopPreinc => sp + 4#32

end Sys2Proof.Machine
end

