-- ==== Sys2Proof/Machine/Shifter.lean ====
section
/-! DEFINITION. The three shifts, as the value an instruction writes (spec/00_scope.md R10) and as the blocks
that produce it: a shift register that moves its content one bit per clock, and the Counter, which is loaded with
the amount and counts down to zero (spec/70_reset_and_hazards.md R266, spec/60_exceptions.md R252). -/

namespace Sys2Proof.Machine

/-- The three shift blocks of the ALU (R24). -/
inductive ShiftKind where
  | left
  | logicalRight
  | arithmeticRight
deriving DecidableEq, Repr

/-- R10: `a << n`, `a >>u n` and `a >>s n`. -/
def shiftValue : ShiftKind → Word → Nat → Word
  | .left, v, n => v <<< n
  | .logicalRight, v, n => v >>> n
  | .arithmeticRight, v, n => v.sshiftRight n

/-- One clock of a shift register: its content moves by one bit; a zero enters, or a copy of the sign bit in
ArithmeticShiftRight (R177 to R179). -/
def shiftOnce : ShiftKind → Word → Word
  | .left, v => v.extractLsb' 0 31 ++ 0#1
  | .logicalRight, v => 0#1 ++ v.extractLsb' 1 31
  | .arithmeticRight, v => v.extractLsb' 31 1 ++ v.extractLsb' 1 31

/-- A shift register together with the Counter. -/
structure ShiftUnit where
  content : Word
  count : Word
deriving DecidableEq, Repr

/-- One clock: at zero the Counter's flag is up and nothing moves; otherwise the content moves and the Counter
counts down. -/
def shiftClock (k : ShiftKind) (u : ShiftUnit) : ShiftUnit :=
  if u.count = 0#32 then u else ⟨shiftOnce k u.content, u.count - 1#32⟩

/-- `n` clocks. -/
def shiftClocks (k : ShiftKind) : Nat → ShiftUnit → ShiftUnit
  | 0, u => u
  | n + 1, u => shiftClocks k n (shiftClock k u)

end Sys2Proof.Machine
end

