-- ==== Sys2Proof/Machine/State.lean ====
section
/-! DEFINITION. The machine's state (spec/10_state.md), as plain data, the reasons a step can stop
(spec/60_exceptions.md section 3), and the state after reset (R45, R261). -/

namespace Sys2Proof.Machine

/-- Memory: the bytes that are not 0, as (address, byte) pairs in rising order of address; an address that is not
listed reads as 0 (DESIGN CHOICE, unsafe: notes/assumptions/2.md). `Memory.wf` in Machine/Ops.lean states the
form. -/
structure Memory where
  cells : List Host.Cell
deriving DecidableEq, Repr

/-- One implemented CSR: its row of CSR_MAP and its value (R34, R35). -/
structure CsrEntry where
  decl : Config.CsrDecl
  value : Word
deriving DecidableEq, Repr

/-- The registers of the datapath that no instruction names (R39). No rule reads them, and a model need not hold
them; what they hold between instructions is what the blocks' descriptions leave there. DEDUCED, safe:
notes/assumptions/4.md. -/
structure Datapath where
  /-- the instruction register, replaced by `MemoryOut` at each fetch (R39, R55) -/
  ir : Word
  /-- the memory address register, whose value is on `MemoryAddress` (R38, R39, R55) -/
  mar : Word
  /-- the down-counter that times the shifts; at zero when a shift ends (R252, R266) -/
  counter : Word
  /-- the shift register of the block LeftShift (R39, R266) -/
  leftShift : Word
  /-- the shift register of the block LogicalShiftRight (R39, R266) -/
  logicalShiftRight : Word
  /-- the shift register of the block ArithmeticShiftRight (R39, R266) -/
  arithmeticShiftRight : Word
deriving DecidableEq, Repr

/-- The whole state of the machine. -/
structure State where
  /-- x[0] to x[31] (R20); x[2] is the stack pointer (R22); read and written through `State.x` and `State.setX`,
  which hard-wire x[0] (R21) -/
  regs : Vector Word 32
  /-- the program counter: the address of the instruction to be executed (R25, R26) -/
  pc : Word
  /-- the CSR file: the registers of CSR_MAP, each with its value (R34, R35) -/
  csrs : List CsrEntry
  /-- the one address space, for instructions and data (R38, R50) -/
  mem : Memory
  /-- the registers that no instruction names (R39) -/
  hw : Datapath
  /-- the open parameters (R8), which no step changes: the model's own field -/
  cfg : Config.Params
  /-- how many free values have been used: the model's own field (notes/assumptions/6.md) -/
  free : Nat
  /-- the accesses that the platform's devices have seen, newest first: the model's own field
  (notes/assumptions/11.md) -/
  io : List Config.DeviceEvent
deriving DecidableEq, Repr

/-- The model-level faults (R235): each says what the documents do not determine and carries the fault's
information and the address of the faulting instruction. All are safe: the hardware may go on where the model
stops, and no claim about a next state holds of a faulted one. R248's `UninitialisedRead` is absent because every
register of the model holds a value (notes/assumptions/1.md). -/
inductive Fault where
  /-- R236, raised by `step` for a word that is no instruction; and by SLLI, SRLI, SRAI given a shift amount with
  bit 5 set (R180). Safe. -/
  | illegalInstruction (word pc : Word)
  /-- R237, raised by JAL, JALR and a taken branch whose target is not a multiple of 4. Safe. -/
  | misalignedFetch (target pc : Word)
  /-- R238, raised by LH, LHU, SH, LW, SW, SWSP and LWSP at an address that is not a multiple of the width, and by
  the fetch at a pc that is not a multiple of 4, which no run reaches (R55). Safe. -/
  | misalignedAccess (addr pc : Word)
  /-- R239, raised by a fetch, load or store that touches a byte outside MEM_MAP. Safe. -/
  | accessFault (addr pc : Word)
  /-- R240, raised by a CSR instruction whose address is not in CSR_MAP. Safe. -/
  | unimplementedCSR (csr : CsrAddr) (pc : Word)
deriving DecidableEq, Repr

/-- Why the model has no meaning to give. -/
inductive Refusal where
  /-- the instruction has no meaning yet: raised by `exec` alone, and by no arm of it now. Safe. -/
  | notModelled (mnemonic : String)
deriving DecidableEq, Repr

/-- The outcome of one instruction or step. -/
abbrev Result := Host.Outcome State Fault Refusal

/-- The datapath registers after reset. R45 gives them no value; zero is the model's. DESIGN CHOICE, unsafe:
notes/assumptions/1.md. -/
def Datapath.reset : Datapath := ⟨0#32, 0#32, 0#32, 0#32, 0#32, 0#32⟩

/-- R45, R261: the state after a reset under the parameters `cfg` and the CSR_MAP `csrMap`, over the memory `mem`
that the platform loaded: the pc is 0, x[0] is 0, the other registers are as RESET_REGS says, each CSR is at its
reset value. -/
def State.resetWith (cfg : Config.Params) (csrMap : List Config.CsrDecl) (mem : Memory) : State where
  regs := cfg.resetRegs.set 0 0#32
  pc := 0#32
  csrs := csrMap.map fun d => ⟨d, d.resetValue⟩
  mem := mem
  hw := Datapath.reset
  cfg := cfg
  free := 0
  io := []

/-- The machine right after reset, under the defaults of R8, with nothing loaded into memory. -/
def State.reset : State := State.resetWith Config.Params.default Config.noCsrs ⟨[]⟩

end Sys2Proof.Machine
end

