-- ==== Sys2Proof/Machine/Ops.lean ====
section
/-! DEFINITION. The operations that the instructions share: registers, pc, CSRs, memory, fetch, and what takes
the place of exceptions (spec/00_scope.md R11). -/

namespace Sys2Proof.Machine

open Sys2Proof.Config

/-! ## Stopping: what takes the place of an exception (spec/60_exceptions.md section 3)

The spec describes no exception entry and no return from one (R243, R244): a condition it does not determine is a
model-level fault, raised here and nowhere else. -/

/-- R235: the model stops in the fault of this kind and information, at the instruction at `s.pc`; nothing is
changed, because nothing follows. -/
def State.raise (s : State) (kind : Word → Fault) : Fault := kind s.pc

/-- The outcome of an instruction whose operations gave a next state or raised a fault. -/
def finish : Except Fault State → Result
  | .ok t => .next t
  | .error e => .fault e

/-! ## Registers and pc -/

/-- R11, R21: the value of x[i]; x[0] reads as 0. -/
def State.x (s : State) (i : Reg) : Word := if i = 0#5 then 0#32 else s.regs[i.toNat]

/-- R11, R21: `x[i] <- v`; a write to x[0] is discarded. -/
def State.setX (s : State) (i : Reg) (v : Word) : State :=
  if i = 0#5 then s else { s with regs := s.regs.set i.toNat v }

/-- The pc takes the address of the next instruction. -/
def State.setPc (s : State) (t : Word) : State := { s with pc := t }

/-- R25, R27: the sequential successor, `pc + 4` modulo 2^32. -/
def State.advance (s : State) : State := s.setPc (s.pc + 4#32)

/-- R11: the end of an instruction whose one result is `x[rd] <- v`. -/
def State.writeBack (s : State) (rd : Reg) (v : Word) : State := (s.setX rd v).advance

/-- R28: an instruction address is a multiple of 4. -/
def alignedTarget (t : Word) : Bool := t.extractLsb' 0 2 == 0#2

/-- R130, R131: `x[rd]` takes the address of the next instruction and the pc takes the target, if the target is a
multiple of 4 (R237). -/
def State.jumpAndLink (s : State) (rd : Reg) (target : Word) : Result :=
  if alignedTarget target then .next ((s.setX rd (s.pc + 4#32)).setPc target)
  else .fault (s.raise (.misalignedFetch target))

/-- R140: the pc takes the target if the branch is taken, and advances if it is not; only a taken branch needs an
aligned target. -/
def State.branch (s : State) (taken : Bool) (offset : BitVec 13) : Result :=
  if taken then
    let target := s.pc + offsetB offset
    if alignedTarget target then .next (s.setPc target) else .fault (s.raise (.misalignedFetch target))
  else .next s.advance

/-! ## The registers no instruction names (R39) -/

/-- R55: the MAR takes the pc and the IR the fetched word. -/
def State.latchFetch (s : State) (w : Word) : State := { s with hw := { s.hw with ir := w, mar := s.pc } }

/-- R38: the MAR takes the address of a load or a store. -/
def State.latchAddr (s : State) (a : Word) : State := { s with hw := { s.hw with mar := a } }

/-- R266: a shift leaves its result in the block's shift register and the Counter at zero. -/
def State.latchShift (s : State) (k : ShiftKind) (v : Word) : State :=
  match k with
  | .left => { s with hw := { s.hw with counter := 0#32, leftShift := v } }
  | .logicalRight => { s with hw := { s.hw with counter := 0#32, logicalShiftRight := v } }
  | .arithmeticRight => { s with hw := { s.hw with counter := 0#32, arithmeticShiftRight := v } }

/-- R177 to R179, R188, R192, R193: `x[rd]` takes `a` shifted by `n`. -/
def State.shift (s : State) (k : ShiftKind) (rd : Reg) (a : Word) (n : Nat) : Result :=
  .next ((s.latchShift k (shiftValue k a n)).writeBack rd (shiftValue k a n))

/-! ## Memory: the list of bytes -/

/-- The byte that a list of cells gives for an address: the first one listed, or 0. -/
def cellsRead : List Host.Cell → Nat → Byte
  | [], _ => 0#8
  | (k, v) :: rest, a => if k = a then v else cellsRead rest a

/-- The cells without those at an address. -/
def cellsErase (a : Nat) : List Host.Cell → List Host.Cell
  | [] => []
  | (k, v) :: rest => if k = a then cellsErase a rest else (k, v) :: cellsErase a rest

/-- The cells with one more, before the first of a higher address. -/
def cellsInsert (a : Nat) (b : Byte) : List Host.Cell → List Host.Cell
  | [] => [(a, b)]
  | (k, v) :: rest => if a < k then (a, b) :: (k, v) :: rest else (k, v) :: cellsInsert a b rest

/-- R50: the byte at an address. -/
def Memory.read (m : Memory) (a : Nat) : Byte := cellsRead m.cells a

/-- The memory with one byte written; writing 0 takes the address off the list. -/
def Memory.write (m : Memory) (a : Nat) (b : Byte) : Memory :=
  if b = 0#8 then ⟨cellsErase a m.cells⟩ else ⟨cellsInsert a b (cellsErase a m.cells)⟩

/-- The cells' addresses rise from `lo` on and stay within the address space, and no cell is 0. -/
def cellsWf : Nat → List Host.Cell → Bool
  | _, [] => true
  | lo, (k, v) :: rest => decide (lo ≤ k) && decide (k < 4294967296) && decide (v ≠ 0#8) && cellsWf (k + 1) rest

/-- The one canonical form of a memory: 2^32 addresses (R50), strictly rising, no byte 0 listed. -/
def Memory.wf (m : Memory) : Bool := cellsWf 0 m.cells

/-! ## Memory: accesses -/

/-- The byte of memory at a 32-bit address. -/
def State.byteAt (s : State) (a : Word) : Byte := s.mem.read a.toNat

/-- The halfword at an address, in the machine's byte order (R51, R52). -/
def State.halfAt (s : State) (a : Word) : Half := joinHalf s.cfg.byteOrder (s.byteAt a) (s.byteAt (a + 1#32))

/-- The word at an address, in the machine's byte order (R51, R52). -/
def State.wordAt (s : State) (a : Word) : Word :=
  joinWord s.cfg.byteOrder (s.byteAt a) (s.byteAt (a + 1#32)) (s.byteAt (a + 2#32)) (s.byteAt (a + 3#32))

/-- The state with one byte of memory written. -/
def State.putByte (s : State) (a : Word) (b : Byte) : State := { s with mem := s.mem.write a.toNat b }

/-- The state with the two bytes of a halfword written (R53). -/
def State.putHalf (s : State) (a : Word) (v : Half) : State :=
  (s.putByte a (byteOfHalf s.cfg.byteOrder v 0)).putByte (a + 1#32) (byteOfHalf s.cfg.byteOrder v 1)

/-- The state with the four bytes of a word written (R53). -/
def State.putWord (s : State) (a : Word) (v : Word) : State :=
  (((s.putByte a (byteOfWord s.cfg.byteOrder v 0)).putByte (a + 1#32) (byteOfWord s.cfg.byteOrder v 1)).putByte
    (a + 2#32) (byteOfWord s.cfg.byteOrder v 2)).putByte (a + 3#32) (byteOfWord s.cfg.byteOrder v 3)

/-- What MEM_MAP says of an address: the kind of the first region that holds it, if any (R59). -/
def kindAt : List Region → Nat → Option RegionKind
  | [], _ => none
  | r :: rest, a => if r.base ≤ a ∧ a < r.base + r.size then some r.kind else kindAt rest a

/-- The addresses of the bytes of an access (R52, R53). -/
def accessBytes (a : Word) (w : Width) : List Word :=
  match w with
  | .byte => [a]
  | .half => [a, a + 1#32]
  | .word => [a, a + 1#32, a + 2#32, a + 3#32]

/-- R54: an access is at a multiple of its width. -/
def alignedFor (a : Word) (w : Width) : Bool := decide (a.toNat % w.bytes = 0)

/-- R52, R53: every byte of the access is backed by memory or by a device. -/
def State.backed (s : State) (a : Word) (w : Width) : Bool :=
  (accessBytes a w).all fun b => (kindAt s.cfg.memMap b.toNat).isSome

/-- Every byte of the access is plain memory. -/
def State.plainMemory (s : State) (a : Word) (w : Width) : Bool :=
  (accessBytes a w).all fun b => kindAt s.cfg.memMap b.toNat == some .memory

/-- The access is aligned, and plain memory throughout: one whose result is the bytes of memory. -/
def State.accessible (s : State) (a : Word) (w : Width) : Bool := alignedFor a w && s.plainMemory a w

/-- The checks of an access, in the order of R242: alignment (R54, R238), then backing (R59, R239). -/
def State.checkAccess (s : State) (a : Word) (w : Width) : Except Fault Unit :=
  if !alignedFor a w then .error (s.raise (.misalignedAccess a))
  else if !s.backed a w then .error (s.raise (.accessFault a))
  else .ok ()

/-- MEM_MAP gives the address to a device. -/
def State.deviceAt (s : State) (b : Word) : Bool :=
  match kindAt s.cfg.memMap b.toNat with
  | some (.device _) => true
  | _ => false

/-- Reading some byte of the access has side effects (R58). -/
def State.readEffects (s : State) (a : Word) (w : Width) : Bool :=
  (accessBytes a w).any fun b => kindAt s.cfg.memMap b.toNat == some (.device true)

/-- R52: the byte that an access gets from an address: the byte of memory, or what a device answers. The spec gives
no device's answers (R58), so that is a free value. DESIGN CHOICE, safe: notes/assumptions/11.md. -/
def State.answer (s : State) (b : Word) : Byte := if s.deviceAt b then deviceByte s.io s.free b else s.byteAt b

/-- R52: the halfword that an access gets, in the machine's byte order. -/
def State.answerHalf (s : State) (a : Word) : Half := joinHalf s.cfg.byteOrder (s.answer a) (s.answer (a + 1#32))

/-- R52: the word that an access gets, in the machine's byte order. -/
def State.answerWord (s : State) (a : Word) : Word :=
  joinWord s.cfg.byteOrder (s.answer a) (s.answer (a + 1#32)) (s.answer (a + 2#32)) (s.answer (a + 3#32))

/-- R58: what a read leaves. Plain memory: nothing. A device: its answer is used up, and if the read has side
effects the devices have seen it. -/
def State.noteRead (s : State) (a : Word) (w : Width) : State :=
  { s with
    free := if s.plainMemory a w then s.free else s.free + 1
    io := if s.readEffects a w then .read a w :: s.io else s.io }

/-- R58: what a write leaves besides the bytes it stores: a device has seen it. -/
def State.noteWrite (s : State) (a : Word) (w : Width) (v : Word) : State :=
  { s with io := if s.plainMemory a w then s.io else .write a w v :: s.io }

/-- `MemRead(addr, 1)` (R52). -/
def State.readByte (s : State) (a : Word) : Except Fault Byte := (s.checkAccess a .byte).map fun _ => s.answer a

/-- `MemRead(addr, 2)` (R52). -/
def State.readHalf (s : State) (a : Word) : Except Fault Half := (s.checkAccess a .half).map fun _ => s.answerHalf a

/-- `MemRead(addr, 4)` (R52). -/
def State.readWord (s : State) (a : Word) : Except Fault Word := (s.checkAccess a .word).map fun _ => s.answerWord a

/-- `MemWrite(addr, 1, v)` (R53), with the MAR holding the address. -/
def State.writeByte (s : State) (a : Word) (v : Byte) : Except Fault State :=
  (s.checkAccess a .byte).map fun _ => ((s.noteWrite a .byte (v.zeroExtend 32)).latchAddr a).putByte a v

/-- `MemWrite(addr, 2, v)` (R53), with the MAR holding the address. -/
def State.writeHalf (s : State) (a : Word) (v : Half) : Except Fault State :=
  (s.checkAccess a .half).map fun _ => ((s.noteWrite a .half (v.zeroExtend 32)).latchAddr a).putHalf a v

/-- `MemWrite(addr, 4, v)` (R53), with the MAR holding the address. -/
def State.writeWord (s : State) (a : Word) (v : Word) : Except Fault State :=
  (s.checkAccess a .word).map fun _ => ((s.noteWrite a .word v).latchAddr a).putWord a v

/-- R150, R160: the effective address of a load or a store, base register plus sign-extended displacement. -/
def State.effective (s : State) (rs1 : Reg) (offset : BitVec 12) : Word := s.x rs1 + immI offset

/-- R150: the end of a load of width `w` from `a`: `x[rd]` takes the value read, if the access gave one. The access
is made even when rd is 0, so its side effect, if any, happens too (R58). -/
def State.load (s : State) (rd : Reg) (a : Word) (w : Width) (v : Except Fault Word) : Result :=
  finish (v.map fun v => ((s.noteRead a w).latchAddr a).writeBack rd v)

/-- R55: the fetch of the word at the pc. -/
def State.fetch (s : State) : Except Fault Word := s.readWord s.pc

/-! ## Control and status registers -/

/-- The CSR at an address, if CSR_MAP has one (R35, R207). -/
def csrFind : List CsrEntry → CsrAddr → Option CsrEntry
  | [], _ => none
  | e :: rest, a => if e.decl.addr = a then some e else csrFind rest a

/-- The CSR file with the value of the CSR at an address changed. -/
def csrModify (a : CsrAddr) (f : CsrEntry → Word) : List CsrEntry → List CsrEntry
  | [] => []
  | e :: rest => if e.decl.addr = a then { e with value := f e } :: rest else e :: csrModify a f rest

/-- The value of a CSR after `v` is written to it: its writable bits take those of `v`, the others stay (R35).
DEDUCED, safe for a plain register: notes/assumptions/9.md. -/
def CsrEntry.written (e : CsrEntry) (v : Word) : Word := (e.value &&& ~~~e.decl.writable) ||| (v &&& e.decl.writable)

/-- `CSR[a]`, if CSR_MAP has the address (R34). -/
def State.csr (s : State) (a : CsrAddr) : Option Word := (csrFind s.csrs a).map CsrEntry.value

/-- `CSR[a] <- v` (R34). -/
def State.setCsr (s : State) (a : CsrAddr) (v : Word) : State :=
  { s with csrs := csrModify a (fun e => e.written v) s.csrs }

/-- One side effect of an access to a CSR (R35, R200): the CSR it acts on changes as declared, or takes a free value
where the declaration does not say what it becomes. -/
def State.csrEffect (s : State) (f : CsrEffect) : State :=
  match f.change with
  | .update keep flip => { s with csrs := csrModify f.target (fun e => (e.value &&& keep) ^^^ flip) s.csrs }
  | .unstated => { s with csrs := csrModify f.target (fun _ => freeWord s.free) s.csrs, free := s.free + 1 }

/-- The side effects of a row of CSR_MAP that have the trigger, in the order of the row. -/
def State.csrEffects (s : State) (t : CsrTrigger) : List CsrEffect → State
  | [] => s
  | f :: rest => (if f.trigger = t then s.csrEffect f else s).csrEffects t rest

/-- R200, R207: the common step of the six CSR instructions. The CSR is read and written always, and each of the two
has the side effects that its row of CSR_MAP declares (notes/assumptions/5.md); `src` was read before `x[rd]` is
written. -/
def State.csrAccess (s : State) (rd : Reg) (a : CsrAddr) (src : Word) (new : Word → Word → Word) : Result :=
  match csrFind s.csrs a with
  | none => .fault (s.raise (.unimplementedCSR a))
  | some e =>
    .next ((((s.csrEffects .read e.decl.effects).setCsr a (new e.value src)).csrEffects .write
      e.decl.effects).writeBack rd e.value)

/-! ## Reset during a run, and the pins that the model holds constant -/

/-- R260, R268: the effect of asserting `Reset`: the pc, the registers and the CSRs are as after any reset;
memory is outside the processor and keeps its content. What the registers and CSRs take is a DESIGN CHOICE, unsafe:
notes/assumptions/16.md. -/
def State.assertReset (s : State) : State :=
  { State.resetWith s.cfg (s.csrs.map CsrEntry.decl) s.mem with free := s.free, io := s.io }

/-- R232: the acknowledge outputs, 0000 throughout under the premise of R247 (notes/assumptions/13.md). -/
def State.ack (_ : State) : BitVec 4 := 0#4

/-- R38, R40: the pin `MemoryAddress` carries the MAR. -/
def State.memoryAddress (s : State) : Word := s.hw.mar

end Sys2Proof.Machine
end

