-- ==== Sys2Proof/Machine/Branches.lean ====
section
/-! DEFINITION. The conditional branches (spec/42_branches.md; R140 for what they share). -/

namespace Sys2Proof.Machine

/-- R141. -/
def execBeq (rs1 rs2 : Reg) (offset : BitVec 13) (s : State) : Result :=
  s.branch (condEq (s.x rs1) (s.x rs2)) offset

/-- R142. -/
def execBne (rs1 rs2 : Reg) (offset : BitVec 13) (s : State) : Result :=
  s.branch (condNe (s.x rs1) (s.x rs2)) offset

/-- R143. -/
def execBlt (rs1 rs2 : Reg) (offset : BitVec 13) (s : State) : Result :=
  s.branch (condLt (s.x rs1) (s.x rs2)) offset

/-- R144. -/
def execBge (rs1 rs2 : Reg) (offset : BitVec 13) (s : State) : Result :=
  s.branch (condGe (s.x rs1) (s.x rs2)) offset

/-- R145. -/
def execBltu (rs1 rs2 : Reg) (offset : BitVec 13) (s : State) : Result :=
  s.branch (condLtu (s.x rs1) (s.x rs2)) offset

/-- R146. -/
def execBgeu (rs1 rs2 : Reg) (offset : BitVec 13) (s : State) : Result :=
  s.branch (condGeu (s.x rs1) (s.x rs2)) offset


end Sys2Proof.Machine
end

