-- ==== Sys2Proof/Machine/Csr.lean ====
section
/-! DEFINITION. The CSR instructions (spec/47_csr.md; R200 and R207 for what the six share). -/

namespace Sys2Proof.Machine

/-- R201. -/
def execCsrrw (rd : Reg) (csr : CsrAddr) (rs1 : Reg) (s : State) : Result :=
  s.csrAccess rd csr (s.x rs1) fun _ src => src

/-- R202. -/
def execCsrrs (rd : Reg) (csr : CsrAddr) (rs1 : Reg) (s : State) : Result :=
  s.csrAccess rd csr (s.x rs1) fun t src => t ||| src

/-- R203. -/
def execCsrrc (rd : Reg) (csr : CsrAddr) (rs1 : Reg) (s : State) : Result :=
  s.csrAccess rd csr (s.x rs1) fun t src => t &&& ~~~src

/-- R204. -/
def execCsrrwi (rd : Reg) (csr : CsrAddr) (zimm : BitVec 5) (s : State) : Result :=
  s.csrAccess rd csr (immZ zimm) fun _ src => src

/-- R205. -/
def execCsrrsi (rd : Reg) (csr : CsrAddr) (zimm : BitVec 5) (s : State) : Result :=
  s.csrAccess rd csr (immZ zimm) fun t src => t ||| src

/-- R206. -/
def execCsrrci (rd : Reg) (csr : CsrAddr) (zimm : BitVec 5) (s : State) : Result :=
  s.csrAccess rd csr (immZ zimm) fun t src => t &&& ~~~src


end Sys2Proof.Machine
end

