-- ==== Sys2Proof/Machine/Jumps.lean ====
section
/-! DEFINITION. JAL and JALR (spec/41_jumps.md). -/

namespace Sys2Proof.Machine

/-- R130: relative to the address of the JAL itself. -/
def execJal (rd : Reg) (offset : BitVec 21) (s : State) : Result := s.jumpAndLink rd (s.pc + offsetJ offset)

/-- R131: the target is not modified (bit 0 is not cleared); x[rs1] is read before x[rd] is written. -/
def execJalr (rd rs1 : Reg) (imm : BitVec 12) (s : State) : Result := s.jumpAndLink rd (s.x rs1 + immI imm)

end Sys2Proof.Machine
end

