-- ==== Sys2Proof/Machine/Loads.lean ====
section
/-! DEFINITION. The loads (spec/43_loads.md; R150 for what they share). -/

namespace Sys2Proof.Machine

/-- R151: sign-extended byte. -/
def execLb (rd rs1 : Reg) (offset : BitVec 12) (s : State) : Result :=
  s.load rd (s.effective rs1 offset) .byte ((s.readByte (s.effective rs1 offset)).map (·.signExtend 32))

/-- R152: sign-extended halfword. -/
def execLh (rd rs1 : Reg) (offset : BitVec 12) (s : State) : Result :=
  s.load rd (s.effective rs1 offset) .half ((s.readHalf (s.effective rs1 offset)).map (·.signExtend 32))

/-- R153: word. -/
def execLw (rd rs1 : Reg) (offset : BitVec 12) (s : State) : Result :=
  s.load rd (s.effective rs1 offset) .word (s.readWord (s.effective rs1 offset))

/-- R154: zero-extended byte. -/
def execLbu (rd rs1 : Reg) (offset : BitVec 12) (s : State) : Result :=
  s.load rd (s.effective rs1 offset) .byte ((s.readByte (s.effective rs1 offset)).map (·.zeroExtend 32))

/-- R155: zero-extended halfword. -/
def execLhu (rd rs1 : Reg) (offset : BitVec 12) (s : State) : Result :=
  s.load rd (s.effective rs1 offset) .half ((s.readHalf (s.effective rs1 offset)).map (·.zeroExtend 32))


end Sys2Proof.Machine
end

