-- ==== Sys2Proof/Machine/Mul.lean ====
section
/-! DEFINITION. MUL (spec/48_mul.md). -/

namespace Sys2Proof.Machine

/-- R215: the low 32 bits of the signed product. -/
def execMul (rd rs1 rs2 : Reg) (s : State) : Result :=
  .next (s.writeBack rd (BitVec.ofInt 32 ((s.x rs1).toInt * (s.x rs2).toInt)))


end Sys2Proof.Machine
end

