-- ==== Sys2Proof/Machine/OpImm.lean ====
section
/-! DEFINITION. Register-immediate arithmetic (spec/45_op_imm.md; R170 for what the nine share). -/

namespace Sys2Proof.Machine

/-- R171. -/
def execAddi (rd rs1 : Reg) (imm : BitVec 12) (s : State) : Result := .next (s.writeBack rd (s.x rs1 + immI imm))

/-- R172. -/
def execSlti (rd rs1 : Reg) (imm : BitVec 12) (s : State) : Result :=
  .next (s.writeBack rd (boolWord (condLt (s.x rs1) (immI imm))))

/-- R173. -/
def execSltiu (rd rs1 : Reg) (imm : BitVec 12) (s : State) : Result :=
  .next (s.writeBack rd (boolWord (condLtu (s.x rs1) (immI imm))))

/-- R174. -/
def execXori (rd rs1 : Reg) (imm : BitVec 12) (s : State) : Result := .next (s.writeBack rd (s.x rs1 ^^^ immI imm))

/-- R175. -/
def execOri (rd rs1 : Reg) (imm : BitVec 12) (s : State) : Result := .next (s.writeBack rd (s.x rs1 ||| immI imm))

/-- R176. -/
def execAndi (rd rs1 : Reg) (imm : BitVec 12) (s : State) : Result := .next (s.writeBack rd (s.x rs1 &&& immI imm))

/-- R180: a shift amount with bit 5 set makes the word of an immediate shift, `i`, no valid instruction; the decoder
admits no such word. -/
def State.shiftImm (s : State) (i : Instr) (k : ShiftKind) (rd rs1 : Reg) (shamt : BitVec 6) : Result :=
  if validShamt shamt then s.shift k rd (s.x rs1) (shamtAmount shamt)
  else .fault (s.raise (.illegalInstruction (encode i)))

/-- R177. -/
def execSlli (rd rs1 : Reg) (shamt : BitVec 6) (s : State) : Result :=
  s.shiftImm (.slli rd rs1 shamt) .left rd rs1 shamt

/-- R178. -/
def execSrli (rd rs1 : Reg) (shamt : BitVec 6) (s : State) : Result :=
  s.shiftImm (.srli rd rs1 shamt) .logicalRight rd rs1 shamt

/-- R179. -/
def execSrai (rd rs1 : Reg) (shamt : BitVec 6) (s : State) : Result :=
  s.shiftImm (.srai rd rs1 shamt) .arithmeticRight rd rs1 shamt


end Sys2Proof.Machine
end

