-- ==== Sys2Proof/Machine/OpReg.lean ====
section
/-! DEFINITION. Register-register arithmetic (spec/46_op_reg.md; R185 for what the ten share). -/

namespace Sys2Proof.Machine

/-- R186. -/
def execAdd (rd rs1 rs2 : Reg) (s : State) : Result := .next (s.writeBack rd (s.x rs1 + s.x rs2))

/-- R187. -/
def execSub (rd rs1 rs2 : Reg) (s : State) : Result := .next (s.writeBack rd (s.x rs1 - s.x rs2))

/-- R188: by the five low bits of x[rs2]. -/
def execSll (rd rs1 rs2 : Reg) (s : State) : Result := s.shift .left rd (s.x rs1) (regAmount (s.x rs2))

/-- R189. -/
def execSlt (rd rs1 rs2 : Reg) (s : State) : Result := .next (s.writeBack rd (boolWord (condLt (s.x rs1) (s.x rs2))))

/-- R190. -/
def execSltu (rd rs1 rs2 : Reg) (s : State) : Result := .next (s.writeBack rd (boolWord (condLtu (s.x rs1) (s.x rs2))))

/-- R191. -/
def execXor (rd rs1 rs2 : Reg) (s : State) : Result := .next (s.writeBack rd (s.x rs1 ^^^ s.x rs2))

/-- R192: by the five low bits of x[rs2]. -/
def execSrl (rd rs1 rs2 : Reg) (s : State) : Result := s.shift .logicalRight rd (s.x rs1) (regAmount (s.x rs2))

/-- R193: by the five low bits of x[rs2]. -/
def execSra (rd rs1 rs2 : Reg) (s : State) : Result := s.shift .arithmeticRight rd (s.x rs1) (regAmount (s.x rs2))

/-- R194. -/
def execOr (rd rs1 rs2 : Reg) (s : State) : Result := .next (s.writeBack rd (s.x rs1 ||| s.x rs2))

/-- R195. -/
def execAnd (rd rs1 rs2 : Reg) (s : State) : Result := .next (s.writeBack rd (s.x rs1 &&& s.x rs2))


end Sys2Proof.Machine
end

