-- ==== Sys2Proof/Machine/Stack.lean ====
section
/-! DEFINITION. The stack instructions SWSP (PUSH) and LWSP (POP) (spec/49_stack_push_pop.md). -/

namespace Sys2Proof.Machine

open Sys2Proof.Config

/-- R220: the address of SWSP. -/
def State.pushAddr (s : State) (uimm : BitVec 6) : Word := pushBase s.cfg (s.x spReg) + pushUimm s.cfg uimm

/-- R220: the address of LWSP. -/
def State.popAddr (s : State) (uimm : BitVec 6) (reg : BitVec 5) : Word :=
  popBase s.cfg (s.x spReg) + popUimm s.cfg uimm reg

/-- R222, R223: what LWSP writes: `x[rd]` takes the loaded value, and the stack pointer moves as SP_AUTO_ADJUST
says. If it moves and rd = 2, the spec leaves x[2] undefined: it takes a free value. -/
def State.popWrite (s : State) (rd : Reg) (v : Word) : State :=
  if s.cfg.spAdjust = .unchanged then s.setX rd v
  else if rd = spReg then { s.setX spReg (freeWord s.free) with free := s.free + 1 }
  else (s.setX spReg (popSp s.cfg (s.x spReg))).setX rd v

/-- R221, R223: the register stored is read before the stack pointer moves (R23). DEDUCED for a store of x[2] while it
moves: notes/assumptions/17.md. -/
def execSwsp (uimm : BitVec 6) (reg : BitVec 5) (s : State) : Result :=
  finish ((s.writeWord (s.pushAddr uimm) (s.x reg)).map fun t =>
    (t.setX spReg (pushSp s.cfg (s.x spReg))).advance)

/-- R222, R223. -/
def execLwsp (uimm : BitVec 6) (reg : BitVec 5) (s : State) : Result :=
  finish ((s.readWord (s.popAddr uimm reg)).map fun v =>
    (((s.noteRead (s.popAddr uimm reg) .word).latchAddr (s.popAddr uimm reg)).popWrite
      (popRd s.cfg uimm reg) v).advance)


end Sys2Proof.Machine
end

