-- ==== Sys2Proof/Machine/Stores.lean ====
section
/-! DEFINITION. The stores, in the processor's own format (spec/44_stores.md; R160 for what they share). -/

namespace Sys2Proof.Machine

/-- R161. -/
def execSb (rs1 : Reg) (offset : BitVec 12) (low : BitVec 5) (s : State) : Result :=
  finish ((s.writeByte (s.effective rs1 offset) ((s.x (storeRs2 s.cfg offset low)).extractLsb' 0 8)).map State.advance)

/-- R162. -/
def execSh (rs1 : Reg) (offset : BitVec 12) (low : BitVec 5) (s : State) : Result :=
  finish ((s.writeHalf (s.effective rs1 offset) ((s.x (storeRs2 s.cfg offset low)).extractLsb' 0 16)).map State.advance)

/-- R163. -/
def execSw (rs1 : Reg) (offset : BitVec 12) (low : BitVec 5) (s : State) : Result :=
  finish ((s.writeWord (s.effective rs1 offset) (s.x (storeRs2 s.cfg offset low))).map State.advance)


end Sys2Proof.Machine
end

