-- ==== Sys2Proof/Machine/UpperImmediate.lean ====
section
/-! DEFINITION. LUI and AUIPC (spec/40_upper_immediate.md). -/

namespace Sys2Proof.Machine

/-- R120. -/
def execLui (rd : Reg) (imm : BitVec 20) (s : State) : Result := .next (s.writeBack rd (immU imm))

/-- R121: the pc is the address of the AUIPC itself. -/
def execAuipc (rd : Reg) (imm : BitVec 20) (s : State) : Result := .next (s.writeBack rd (s.pc + immU imm))

end Sys2Proof.Machine
end

