-- ==== Sys2Proof/Machine/Step.lean ====
section
/-! DEFINITION. One step: fetch, decode, execute (spec/20_memory.md R55, R61; spec/60_exceptions.md R242). -/

namespace Sys2Proof.Machine

/-- One instruction: the word at the pc is fetched, decoded and executed; a word that is no instruction stops the
model (R103, R236). The instruction sees the IR and the MAR as the fetch left them. -/
def step (s : State) : Host.Outcome State Fault Refusal :=
  match s.fetch with
  | .error e => .fault e
  | .ok w =>
    match decode w with
    | .error _ => .fault (s.raise (.illegalInstruction w))
    | .ok i => exec i ((s.noteRead s.pc .word).latchFetch w)

/-- The state with the word of an opcode-table row at the pc, in the machine's byte order: it stands for
the load of a program from outside the machine (R263, notes/assumptions/12.md). -/
def State.withFetchWord (s : State) (nbits w : Nat) : State := s.putWord s.pc (tableWord nbits w)

end Sys2Proof.Machine
end

