-- ==== Sys2Proof/Safety.lean ====
section
/-! DEFINITION. What runs and statements are about: the outcome's parts, the end of a run
(spec/70_reset_and_hazards.md R263), the invariant of the machine, and what an instruction leaves unchanged. -/

namespace Sys2Proof

/-- What an instruction does besides computing: the classes that the whole-machine rules speak of. -/
inductive InstrKind where
  /-- writes one register and advances the pc -/
  | compute
  /-- JAL, JALR (R130, R131) -/
  | jump
  /-- the conditional branches (R140) -/
  | branch
  /-- reads memory into a register (R56) -/
  | load
  /-- writes memory (R56) -/
  | store
  /-- the six CSR instructions (R34, R200) -/
  | csr
deriving DecidableEq, Repr

/-- The class of each instruction. -/
def Instr.kind : Instr → InstrKind
  | .lui _ _ | .auipc _ _ => .compute
  | .jal _ _ | .jalr _ _ _ => .jump
  | .beq _ _ _ | .bne _ _ _ | .blt _ _ _ | .bge _ _ _ | .bltu _ _ _ | .bgeu _ _ _ => .branch
  | .lb _ _ _ | .lh _ _ _ | .lw _ _ _ | .lbu _ _ _ | .lhu _ _ _ | .lwsp _ _ => .load
  | .sb _ _ _ | .sh _ _ _ | .sw _ _ _ | .swsp _ _ => .store
  | .addi _ _ _ | .slti _ _ _ | .sltiu _ _ _ | .xori _ _ _ | .ori _ _ _ | .andi _ _ _ => .compute
  | .slli _ _ _ | .srli _ _ _ | .srai _ _ _ => .compute
  | .add _ _ _ | .sub _ _ _ | .sll _ _ _ | .slt _ _ _ | .sltu _ _ _ | .xor _ _ _ | .srl _ _ _ => .compute
  | .sra _ _ _ | .or _ _ _ | .and _ _ _ | .mul _ _ _ => .compute
  | .csrrw _ _ _ | .csrrs _ _ _ | .csrrc _ _ _ | .csrrwi _ _ _ | .csrrsi _ _ _ | .csrrci _ _ _ => .csr

/-- The instruction is one of the six shifts, which alone use the Counter and the shift registers (R39, R266). -/
def Instr.isShift : Instr → Bool
  | .slli _ _ _ | .srli _ _ _ | .srai _ _ _ | .sll _ _ _ | .srl _ _ _ | .sra _ _ _ => true
  | .lui _ _ | .auipc _ _ | .jal _ _ | .jalr _ _ _ => false
  | .beq _ _ _ | .bne _ _ _ | .blt _ _ _ | .bge _ _ _ | .bltu _ _ _ | .bgeu _ _ _ => false
  | .lb _ _ _ | .lh _ _ _ | .lw _ _ _ | .lbu _ _ _ | .lhu _ _ _ | .lwsp _ _ => false
  | .sb _ _ _ | .sh _ _ _ | .sw _ _ _ | .swsp _ _ => false
  | .addi _ _ _ | .slti _ _ _ | .sltiu _ _ _ | .xori _ _ _ | .ori _ _ _ | .andi _ _ _ => false
  | .add _ _ _ | .sub _ _ _ | .slt _ _ _ | .sltu _ _ _ | .xor _ _ _ | .or _ _ _ | .and _ _ _ => false
  | .mul _ _ _ => false
  | .csrrw _ _ _ | .csrrs _ _ _ | .csrrc _ _ _ | .csrrwi _ _ _ | .csrrsi _ _ _ | .csrrci _ _ _ => false

end Sys2Proof

namespace Sys2Proof.Machine

/-- The next state of an outcome, if it has one. -/
def nextOf : Result → Option State
  | .next t => some t
  | .fault _ => none
  | .refused _ => none

/-- The fault of an outcome, if it is one. -/
def faultOf : Result → Option Fault
  | .next _ => none
  | .fault f => some f
  | .refused _ => none

/-- The refusal of an outcome, if it is one. -/
def refusalOf : Result → Option Refusal
  | .next _ => none
  | .fault _ => none
  | .refused r => some r

/-- R263: the pc, the registers, the CSRs and the memory are the same. -/
abbrev SameProgramState (s t : State) : Prop := t.pc = s.pc ∧ t.regs = s.regs ∧ t.csrs = s.csrs ∧ t.mem = s.mem

/-- R263: a run has ended when the instruction at the pc leaves pc, registers, CSRs and memory all unchanged. -/
def Final (s : State) : Prop := ∃ t, step s = .next t ∧ SameProgramState s t

/-- The invariant of the machine: the register file's entry for x[0] is 0 (R21), the pc is a multiple of 4 (R28),
and the memory is in its canonical form (R50). -/
abbrev Inv (s : State) : Prop := s.regs[0] = 0#32 ∧ s.pc.toNat % 4 = 0 ∧ s.mem.wf = true

/-- Every byte of memory reads as before. -/
def SameMemory (s t : State) : Prop := ∀ a : Nat, t.mem.read a = s.mem.read a

/-- Every byte of memory outside the bytes of one access reads as before. -/
def SameMemoryOutside (a : Word) (w : Width) (s t : State) : Prop :=
  ∀ b : Nat, (∀ c ∈ accessBytes a w, b ≠ c.toNat) → t.mem.read b = s.mem.read b

/-- The registers after `x[rd] <- v` and nothing else: x[0] reads 0 and drops the write, and every other register
is as before (R11, R21). -/
def RegsAfterWrite (rd : Reg) (v : Word) (s t : State) : Prop :=
  ∀ r : Reg, t.x r = if r = 0#5 then 0#32 else if r = rd then v else s.x r

/-- Every register reads as before. -/
def SameRegs (s t : State) : Prop := ∀ r : Reg, t.x r = s.x r

/-- The CSR file, the parameters, the count of free values and what the devices have seen are as before. -/
abbrev SameSystem (s t : State) : Prop := t.csrs = s.csrs ∧ t.cfg = s.cfg ∧ t.free = s.free ∧ t.io = s.io

/-- What an instruction whose one result is `x[rd] <- v` does: the register, the pc's advance, nothing else that a
program can read (R11, R170, R185). -/
def WritesOnly (rd : Reg) (v : Word) (s t : State) : Prop :=
  t.pc = s.pc + 4#32 ∧ RegsAfterWrite rd v s t ∧ SameMemory s t ∧ SameSystem s t

/-- What an instruction does that writes no register: the pc takes `p`, nothing else that a program can read
changes. -/
def MovesOnly (p : Word) (s t : State) : Prop := t.pc = p ∧ SameRegs s t ∧ SameMemory s t ∧ SameSystem s t

/-- R140: what a branch does, given when it is taken. The pc takes the target if the branch is taken and the target
is a multiple of 4; a taken branch elsewhere raises `MisalignedFetch`; a branch that is not taken advances,
whatever its offset. -/
def BranchRule (i : Instr) (taken : Prop) (offset : BitVec 13) (s : State) : Prop :=
  (taken → (s.pc + offset.signExtend 32).toNat % 4 = 0 →
    ∃ t, exec i s = .next t ∧ MovesOnly (s.pc + offset.signExtend 32) s t) ∧
  (taken → (s.pc + offset.signExtend 32).toNat % 4 ≠ 0 →
    exec i s = .fault (.misalignedFetch (s.pc + offset.signExtend 32) s.pc)) ∧
  (¬ taken → ∃ t, exec i s = .next t ∧ MovesOnly (s.pc + 4#32) s t)

/-- R239: an aligned access at `a` that touches a byte outside MEM_MAP: the outcome of a load or a store there. -/
def BackingStops (i : Instr) (a : Word) (w : Width) (s : State) : Prop :=
  a.toNat % w.bytes = 0 → s.backed a w = false → exec i s = .fault (.accessFault a s.pc)

/-- What the checks of R242 (4) make of an access wider than a byte at `a`: alignment first (R238), then backing. -/
def AccessStops (i : Instr) (a : Word) (w : Width) (s : State) : Prop :=
  (a.toNat % w.bytes ≠ 0 → exec i s = .fault (.misalignedAccess a s.pc)) ∧ BackingStops i a w s

/-- An aligned access at `a`, every byte of which is in MEM_MAP and some byte of which is a device's. -/
abbrev TouchesDevice (a : Word) (w : Width) (s : State) : Prop :=
  a.toNat % w.bytes = 0 ∧ s.backed a w = true ∧ s.plainMemory a w = false

/-- What the devices have seen after a read (R58): that read too, if it has side effects. -/
def SeenRead (a : Word) (w : Width) (s t : State) : Prop :=
  t.io = if s.readEffects a w then .read a w :: s.io else s.io

/-- What a load from an address that touches a device does, given the value `v` that the access gets: what a load
from memory does, and the read is noted (notes/assumptions/11.md). -/
def DeviceLoad (i : Instr) (rd : Reg) (a : Word) (w : Width) (v : Word) (s : State) : Prop :=
  ∃ t, exec i s = .next t ∧ t.pc = s.pc + 4#32 ∧ RegsAfterWrite rd v s t ∧ SameMemory s t ∧ t.csrs = s.csrs ∧
    t.cfg = s.cfg ∧ t.free = s.free + 1 ∧ SeenRead a w s t

/-- What a store to an address that touches a device does: the devices see the write of `v`, the stored bytes are
what `stored` says, x[2] takes `sp`, and every other byte and register, the CSRs and the parameters stay. -/
def DeviceStore (i : Instr) (a : Word) (w : Width) (v sp : Word) (stored : State → Prop) (s : State) : Prop :=
  ∃ t, exec i s = .next t ∧ t.pc = s.pc + 4#32 ∧ RegsAfterWrite 2#5 sp s t ∧ stored t ∧ SameMemoryOutside a w s t ∧
    t.csrs = s.csrs ∧ t.cfg = s.cfg ∧ t.free = s.free ∧ t.io = .write a w v :: s.io

/-- What a CSR instruction does with a CSR without side effects whose value is `old`: `x[rd]` takes `old`, the CSR
takes `new`, no other CSR and no memory changes, and the pc advances (R200). -/
def CsrRule (i : Instr) (rd : Reg) (a : CsrAddr) (old new : Word) (s : State) : Prop :=
  ∃ t, exec i s = .next t ∧ t.pc = s.pc + 4#32 ∧ RegsAfterWrite rd old s t ∧ t.csr a = some new ∧
    (∀ b, b ≠ a → t.csr b = s.csr b) ∧ SameMemory s t ∧ t.cfg = s.cfg ∧ t.free = s.free ∧ t.io = s.io

/-- No side effect of a row of CSR_MAP acts on the CSR at `a`. -/
abbrev NotATarget (a : CsrAddr) (d : Config.CsrDecl) : Prop := ∀ f ∈ d.effects, f.target ≠ a

/-- What the side effects `fs` of one trigger make of the value `v` of the CSR at `b`, in the order of the row; an
effect of unstated result is not counted. -/
def afterEffects (g : Config.CsrTrigger) (b : CsrAddr) (fs : List Config.CsrEffect) (v : Word) : Word :=
  fs.foldl (fun v f =>
    match f.change with
    | .update keep flip => if f.trigger = g ∧ f.target = b then (v &&& keep) ^^^ flip else v
    | .unstated => v) v

/-- What a CSR instruction does with the CSR `e` at `a`, whatever its row declares: R200's read and write, with the
value `new` written, and the row's side effects (notes/assumptions/5.md). Every CSR on which no effect of unstated
result acts has the value that the read's effects, the write if it is the CSR at `a`, and the write's effects make. -/
def CsrEffectRule (i : Instr) (rd : Reg) (a : CsrAddr) (e : CsrEntry) (new : Word) (s : State) : Prop :=
  ∃ t, exec i s = .next t ∧ t.pc = s.pc + 4#32 ∧ RegsAfterWrite rd e.value s t ∧ SameMemory s t ∧ t.cfg = s.cfg ∧
    t.io = s.io ∧ ((∀ f ∈ e.decl.effects, f.change ≠ .unstated) → t.free = s.free) ∧
    t.csrs.map CsrEntry.decl = s.csrs.map CsrEntry.decl ∧
    ∀ b v u, s.csr b = some v → (∀ f ∈ e.decl.effects, f.target = b → f.change ≠ .unstated) →
      u = afterEffects .read b e.decl.effects v →
      t.csr b = some (afterEffects .write b e.decl.effects
        (if b = a then ({ e with value := u } : CsrEntry).written new else u))

/-- An outcome with its next state, if it has one, changed by `f`. -/
def mapNext (f : State → State) : Result → Result
  | .next t => .next (f t)
  | .fault e => .fault e
  | .refused r => .refused r

/-- The state under another reading of STORE_RS2_FIELD (R160). -/
def State.withStoreRs2 (f : Config.StoreRs2Field) (s : State) : State :=
  { s with cfg := { s.cfg with storeRs2 := f } }

/-- The state with another CSR file. -/
def State.withCsrs (c : List CsrEntry) (s : State) : State := { s with csrs := c }

/-- An outcome with the registers that no instruction names put at one value, so that outcomes can be compared
without them. -/
def forgetDatapath (r : Result) : Result := mapNext (fun t => { t with hw := Datapath.reset }) r

/-- MEM_MAP gives every one of the 2^32 addresses to plain memory, as the default does (R8). -/
def AllMemory (s : State) : Prop := ∀ a : Nat, a < 4294967296 → kindAt s.cfg.memMap a = some .memory

/-- The address of an instruction's load or store, if it makes one (R150, R160, R220). -/
def memAddr (s : State) : Instr → Option Word
  | .lb _ rs1 offset | .lh _ rs1 offset | .lw _ rs1 offset | .lbu _ rs1 offset | .lhu _ rs1 offset =>
    some (s.effective rs1 offset)
  | .sb rs1 offset _ | .sh rs1 offset _ | .sw rs1 offset _ => some (s.effective rs1 offset)
  | .swsp uimm _ => some (s.pushAddr uimm)
  | .lwsp uimm reg => some (s.popAddr uimm reg)
  | .lui _ _ | .auipc _ _ | .jal _ _ | .jalr _ _ _ => none
  | .beq _ _ _ | .bne _ _ _ | .blt _ _ _ | .bge _ _ _ | .bltu _ _ _ | .bgeu _ _ _ => none
  | .addi _ _ _ | .slti _ _ _ | .sltiu _ _ _ | .xori _ _ _ | .ori _ _ _ | .andi _ _ _ => none
  | .slli _ _ _ | .srli _ _ _ | .srai _ _ _ => none
  | .add _ _ _ | .sub _ _ _ | .sll _ _ _ | .slt _ _ _ | .sltu _ _ _ | .xor _ _ _ | .srl _ _ _ => none
  | .sra _ _ _ | .or _ _ _ | .and _ _ _ | .mul _ _ _ => none
  | .csrrw _ _ _ | .csrrs _ _ _ | .csrrc _ _ _ | .csrrwi _ _ _ | .csrrsi _ _ _ | .csrrci _ _ _ => none

end Sys2Proof.Machine
end

