-- ==== Sys2Proof/Certificates/Slice0/Obligations.lean ====
section
/-! DEFINITION. The statements for the provers, in OBLIGATIONS.json's order. Each docstring names the rule of spec/
that the statement formalises; where a statement rests on a choice of the model, it names the log entry. -/

open Sys2Proof Sys2Proof.Machine Sys2Proof.Config

/-! ## Fetch, decode, step -/

/-- R55, R61: when the word at the pc decodes to an instruction, the step is that instruction, run in the state
whose IR holds the word and whose MAR holds the pc (those two by notes/assumptions/4.md). -/
def Obligations.StepRunsDecodedInstruction : Prop :=
  ∀ (s : State) (i : Instr), s.accessible s.pc .word = true → decode (s.wordAt s.pc) = .ok i →
    step s = exec i { s with hw := { s.hw with ir := s.wordAt s.pc, mar := s.pc } }

/-- R103, R108, R236: a fetched word that matches no row of the opcode map stops the model in
`IllegalInstruction(word)`. -/
def Obligations.UnlistedWordRaisesIllegalInstruction : Prop :=
  ∀ s : State, s.accessible s.pc .word = true →
    (∀ row ∈ opcodeMap, s.wordAt s.pc &&& row.mask ≠ row.pattern) →
    step s = .fault (.illegalInstruction (s.wordAt s.pc) s.pc)

/-- R239, R242 (1): a fetch that touches a byte outside MEM_MAP stops before decoding. The first clause is a state
that no run reaches (R237), the model's choice: notes/assumptions/10.md. -/
def Obligations.FetchStopsOutsideTheMap : Prop :=
  ∀ s : State,
    (s.pc.toNat % 4 ≠ 0 → step s = .fault (.misalignedAccess s.pc s.pc)) ∧
    (s.pc.toNat % 4 = 0 → s.backed s.pc .word = false → step s = .fault (.accessFault s.pc s.pc))

/-- Sanity: words written out from the formats of R82 to R90 decode to the instructions they stand for. -/
def Obligations.WrittenWordsDecode : Prop :=
  decode 0b10101011110011011110001010110111#32 = .ok (.lui 5#5 0xABCDE#20) ∧
  decode 0b11111111110111111111000001101111#32 = .ok (.jal 0#5 (BitVec.ofInt 21 (-4))) ∧
  decode 0b11111110011000101001110011100011#32 = .ok (.bne 5#5 6#5 (BitVec.ofInt 13 (-8))) ∧
  decode 0b11111110110001010010011000100011#32 = .ok (.sw 10#5 (BitVec.ofInt 12 (-20)) 12#5) ∧
  decode 0b01000000010000110101001010010011#32 = .ok (.srai 5#5 6#5 4#6) ∧
  decode 0b00000010011100110000001010110011#32 = .ok (.mul 5#5 6#5 7#5) ∧
  decode 0b00110100000010101111001011110011#32 = .ok (.csrrci 5#5 0x340#12 21#5) ∧
  decode 0b00000000000000001100001000100010#32 = .ok (.swsp 0b000100#6 8#5)

/-- Decoding what the encoder writes gives the instruction back, for every instruction and every operand its
encoding admits. -/
def Obligations.DecodeOfEncodeIsTheInstruction : Prop :=
  ∀ i : Instr, i.wellFormed = true → decode (encode i) = .ok i

/-- R100: each instruction has one encoding. A word that decodes is the very word the encoder writes for the
instruction, and the instruction is well-formed. -/
def Obligations.EncodeOfDecodeIsTheWord : Prop :=
  ∀ (w : Word) (i : Instr), decode w = .ok i → encode i = w ∧ i.wellFormed = true

/-- R100, R101: a word is an instruction's if and only if its masked bits are the pattern of the instruction's row,
and the patterns are pairwise disjoint. -/
def Obligations.WordIsInstructionIffItMatchesItsRow : Prop :=
  (∀ row ∈ opcodeMap, ∀ w : Word,
    w &&& row.mask = row.pattern ↔ ∃ i, decode w = .ok i ∧ i.mnemonic = row.mnemonic) ∧
  opcodeMap.Pairwise fun a b => ∀ w : Word, ¬ (w &&& a.mask = a.pattern ∧ w &&& b.mask = b.pattern)

/-- R180: an immediate shift with `IR[25] = 1` is not a valid instruction. -/
def Obligations.ShiftWithBit25RaisesIllegalInstruction : Prop :=
  ∀ s : State, s.accessible s.pc .word = true →
    (s.wordAt s.pc).extractLsb' 0 7 = 0b0010011#7 →
    ((s.wordAt s.pc).extractLsb' 12 3 = 0b001#3 ∨ (s.wordAt s.pc).extractLsb' 12 3 = 0b101#3) →
    (s.wordAt s.pc).getLsbD 25 = true →
    step s = .fault (.illegalInstruction (s.wordAt s.pc) s.pc)

/-- R62, R236, R244: FENCE, ECALL, EBREAK, MRET, WFI, and the words of zeros and of ones, are no instructions, and
neither is any word whose two low bits are 00 or 01. -/
def Obligations.AbsentInstructionsDoNotDecode : Prop :=
  (∀ w ∈ [0x0FF0000F#32, 0x00000073#32, 0x00100073#32, 0x30200073#32, 0x10500073#32, 0x00000000#32, 0xFFFFFFFF#32],
    ∃ e, decode w = .error e) ∧
  (∀ w : Word, w.getLsbD 1 = false → ∃ e, decode w = .error e) ∧
  (∀ w : Word, w.extractLsb' 0 7 = 0b0001111#7 → ∃ e, decode w = .error e)

/-- The interface: the word that `withFetchWord` places at the pc is the word the next step runs. -/
def Obligations.PlacedWordIsRunNext : Prop :=
  ∀ (s : State) (w : Nat) (i : Instr), s.accessible s.pc .word = true → decodeTableWord 32 w = some i →
    step (s.withFetchWord 32 w) =
      exec i { s.withFetchWord 32 w with hw := { s.hw with ir := BitVec.ofNat 32 w, mar := s.pc } }

/-! ## What each instruction does -/

/-- R120, R121: the word of each, and what it writes. -/
def Obligations.UpperImmediateResults : Prop :=
  ∀ (rd : Reg) (imm : BitVec 20) (s : State),
    encode (.lui rd imm) = imm ++ rd ++ 0b0110111#7 ∧ encode (.auipc rd imm) = imm ++ rd ++ 0b0010111#7 ∧
    (∃ t v, exec (.lui rd imm) s = .next t ∧ v.toNat = imm.toNat * 4096 ∧ WritesOnly rd v s t) ∧
    (∃ t v, exec (.auipc rd imm) s = .next t ∧ v.toNat = (s.pc.toNat + imm.toNat * 4096) % 4294967296 ∧
      WritesOnly rd v s t)

/-- R130, R131: the word of each; the link is the address of the next instruction, the target is formed from the
registers as they were before, and a target that is not a multiple of 4 faults without linking. -/
def Obligations.JumpResults : Prop :=
  ∀ (rd rs1 : Reg) (offset : BitVec 21) (imm : BitVec 12) (s : State),
    encode (.jal rd offset) = offset.extractLsb' 20 1 ++ offset.extractLsb' 1 10 ++ offset.extractLsb' 11 1 ++
      offset.extractLsb' 12 8 ++ rd ++ 0b1101111#7 ∧
    encode (.jalr rd rs1 imm) = imm ++ rs1 ++ 0b000#3 ++ rd ++ 0b1100111#7 ∧
    ((s.pc + offset.signExtend 32).toNat % 4 = 0 →
      ∃ t, exec (.jal rd offset) s = .next t ∧ t.pc = s.pc + offset.signExtend 32 ∧
        RegsAfterWrite rd (s.pc + 4#32) s t ∧ SameMemory s t ∧ SameSystem s t) ∧
    ((s.pc + offset.signExtend 32).toNat % 4 ≠ 0 →
      exec (.jal rd offset) s = .fault (.misalignedFetch (s.pc + offset.signExtend 32) s.pc)) ∧
    ((s.x rs1 + imm.signExtend 32).toNat % 4 = 0 →
      ∃ t, exec (.jalr rd rs1 imm) s = .next t ∧ t.pc = s.x rs1 + imm.signExtend 32 ∧
        RegsAfterWrite rd (s.pc + 4#32) s t ∧ SameMemory s t ∧ SameSystem s t) ∧
    ((s.x rs1 + imm.signExtend 32).toNat % 4 ≠ 0 →
      exec (.jalr rd rs1 imm) s = .fault (.misalignedFetch (s.x rs1 + imm.signExtend 32) s.pc))

/-- R140 to R146: the words of the six branches, each with its own funct3 and its own comparison. -/
def Obligations.BranchResults : Prop :=
  ∀ (rs1 rs2 : Reg) (offset : BitVec 13) (s : State),
    (∀ f3 : BitVec 3, encB offset rs2 rs1 f3 =
      offset.extractLsb' 12 1 ++ offset.extractLsb' 5 6 ++ rs2 ++ rs1 ++ f3 ++ offset.extractLsb' 1 4 ++
        offset.extractLsb' 11 1 ++ 0b1100011#7) ∧
    encode (.beq rs1 rs2 offset) = encB offset rs2 rs1 0b000#3 ∧
    encode (.bne rs1 rs2 offset) = encB offset rs2 rs1 0b001#3 ∧
    encode (.blt rs1 rs2 offset) = encB offset rs2 rs1 0b100#3 ∧
    encode (.bge rs1 rs2 offset) = encB offset rs2 rs1 0b101#3 ∧
    encode (.bltu rs1 rs2 offset) = encB offset rs2 rs1 0b110#3 ∧
    encode (.bgeu rs1 rs2 offset) = encB offset rs2 rs1 0b111#3 ∧
    BranchRule (.beq rs1 rs2 offset) (s.x rs1 = s.x rs2) offset s ∧
    BranchRule (.bne rs1 rs2 offset) (s.x rs1 ≠ s.x rs2) offset s ∧
    BranchRule (.blt rs1 rs2 offset) ((s.x rs1).toInt < (s.x rs2).toInt) offset s ∧
    BranchRule (.bge rs1 rs2 offset) ((s.x rs1).toInt ≥ (s.x rs2).toInt) offset s ∧
    BranchRule (.bltu rs1 rs2 offset) ((s.x rs1).toNat < (s.x rs2).toNat) offset s ∧
    BranchRule (.bgeu rs1 rs2 offset) ((s.x rs1).toNat ≥ (s.x rs2).toNat) offset s

/-- R150 to R155: the words of the five loads, what each writes when its access is to plain memory, and what stops it:
first an address that is not a multiple of the width, then a byte outside MEM_MAP. -/
def Obligations.LoadResults : Prop :=
  ∀ (rd rs1 : Reg) (offset : BitVec 12) (s : State) (a : Word), a = s.x rs1 + offset.signExtend 32 →
    encode (.lb rd rs1 offset) = offset ++ rs1 ++ 0b000#3 ++ rd ++ 0b0000011#7 ∧
    encode (.lh rd rs1 offset) = offset ++ rs1 ++ 0b001#3 ++ rd ++ 0b0000011#7 ∧
    encode (.lw rd rs1 offset) = offset ++ rs1 ++ 0b010#3 ++ rd ++ 0b0000011#7 ∧
    encode (.lbu rd rs1 offset) = offset ++ rs1 ++ 0b100#3 ++ rd ++ 0b0000011#7 ∧
    encode (.lhu rd rs1 offset) = offset ++ rs1 ++ 0b101#3 ++ rd ++ 0b0000011#7 ∧
    (s.accessible a .byte = true →
      ∃ t v, exec (.lb rd rs1 offset) s = .next t ∧ v.toInt = (s.byteAt a).toInt ∧ WritesOnly rd v s t) ∧
    (s.accessible a .half = true →
      ∃ t v, exec (.lh rd rs1 offset) s = .next t ∧ v.toInt = (s.halfAt a).toInt ∧ WritesOnly rd v s t) ∧
    (s.accessible a .word = true →
      ∃ t, exec (.lw rd rs1 offset) s = .next t ∧ WritesOnly rd (s.wordAt a) s t) ∧
    (s.accessible a .byte = true →
      ∃ t v, exec (.lbu rd rs1 offset) s = .next t ∧ v.toNat = (s.byteAt a).toNat ∧ WritesOnly rd v s t) ∧
    (s.accessible a .half = true →
      ∃ t v, exec (.lhu rd rs1 offset) s = .next t ∧ v.toNat = (s.halfAt a).toNat ∧ WritesOnly rd v s t) ∧
    BackingStops (.lb rd rs1 offset) a .byte s ∧ AccessStops (.lh rd rs1 offset) a .half s ∧
    AccessStops (.lw rd rs1 offset) a .word s ∧ BackingStops (.lbu rd rs1 offset) a .byte s ∧
    AccessStops (.lhu rd rs1 offset) a .half s

/-- R53, R160 to R163: what a store to plain memory writes (in the machine's byte order, and byte by byte in the
default one), the words of the three stores, and that nothing else changes. STORE_RS2_FIELD names the data
register. A store at a misaligned address, or at a byte outside MEM_MAP, stops; it has no next state. -/
def Obligations.StoreResults : Prop :=
  ∀ (rs1 : Reg) (offset : BitVec 12) (low : BitVec 5) (s : State) (a v : Word),
    a = s.x rs1 + offset.signExtend 32 → v = s.x (storeRs2 s.cfg offset low) →
    encode (.sb rs1 offset low) = offset ++ rs1 ++ 0b000#3 ++ low ++ 0b0100011#7 ∧
    encode (.sh rs1 offset low) = offset ++ rs1 ++ 0b001#3 ++ low ++ 0b0100011#7 ∧
    encode (.sw rs1 offset low) = offset ++ rs1 ++ 0b010#3 ++ low ++ 0b0100011#7 ∧
    (s.cfg.storeRs2 = .ir24to20 → storeRs2 s.cfg offset low = offset.extractLsb' 0 5) ∧
    (s.cfg.storeRs2 = .ir11to7 → storeRs2 s.cfg offset low = low) ∧
    (s.accessible a .byte = true →
      ∃ t, exec (.sb rs1 offset low) s = .next t ∧ t.byteAt a = v.extractLsb' 0 8 ∧
        SameMemoryOutside a .byte s t ∧ t.pc = s.pc + 4#32 ∧ SameRegs s t ∧ SameSystem s t) ∧
    (s.accessible a .half = true →
      ∃ t, exec (.sh rs1 offset low) s = .next t ∧ t.halfAt a = v.extractLsb' 0 16 ∧
        (s.cfg.byteOrder = .little →
          t.byteAt a = v.extractLsb' 0 8 ∧ t.byteAt (a + 1#32) = v.extractLsb' 8 8) ∧
        SameMemoryOutside a .half s t ∧ t.pc = s.pc + 4#32 ∧ SameRegs s t ∧ SameSystem s t) ∧
    (s.accessible a .word = true →
      ∃ t, exec (.sw rs1 offset low) s = .next t ∧ t.wordAt a = v ∧
        (s.cfg.byteOrder = .little →
          t.byteAt a = v.extractLsb' 0 8 ∧ t.byteAt (a + 1#32) = v.extractLsb' 8 8 ∧
          t.byteAt (a + 2#32) = v.extractLsb' 16 8 ∧ t.byteAt (a + 3#32) = v.extractLsb' 24 8) ∧
        SameMemoryOutside a .word s t ∧ t.pc = s.pc + 4#32 ∧ SameRegs s t ∧ SameSystem s t) ∧
    BackingStops (.sb rs1 offset low) a .byte s ∧ AccessStops (.sh rs1 offset low) a .half s ∧
    AccessStops (.sw rs1 offset low) a .word s

/-- R160: the two readings of the data register, and the safe subset: an encoding with `IR[11:7] = IR[24:20]` does the
same under both. -/
def Obligations.SafeStoreEncodingsDoNotDependOnTheReading : Prop :=
  ∀ (rs1 : Reg) (offset : BitVec 12) (low : BitVec 5) (s : State) (f : StoreRs2Field),
    low = offset.extractLsb' 0 5 →
    exec (.sb rs1 offset low) (s.withStoreRs2 f) = mapNext (State.withStoreRs2 f) (exec (.sb rs1 offset low) s) ∧
    exec (.sh rs1 offset low) (s.withStoreRs2 f) = mapNext (State.withStoreRs2 f) (exec (.sh rs1 offset low) s) ∧
    exec (.sw rs1 offset low) (s.withStoreRs2 f) = mapNext (State.withStoreRs2 f) (exec (.sw rs1 offset low) s)

/-- R171 to R176: the words of the six and what each writes; R170: they access no memory and raise nothing. -/
def Obligations.ImmediateArithmeticResults : Prop :=
  ∀ (rd rs1 : Reg) (imm : BitVec 12) (s : State),
    encode (.addi rd rs1 imm) = imm ++ rs1 ++ 0b000#3 ++ rd ++ 0b0010011#7 ∧
    encode (.slti rd rs1 imm) = imm ++ rs1 ++ 0b010#3 ++ rd ++ 0b0010011#7 ∧
    encode (.sltiu rd rs1 imm) = imm ++ rs1 ++ 0b011#3 ++ rd ++ 0b0010011#7 ∧
    encode (.xori rd rs1 imm) = imm ++ rs1 ++ 0b100#3 ++ rd ++ 0b0010011#7 ∧
    encode (.ori rd rs1 imm) = imm ++ rs1 ++ 0b110#3 ++ rd ++ 0b0010011#7 ∧
    encode (.andi rd rs1 imm) = imm ++ rs1 ++ 0b111#3 ++ rd ++ 0b0010011#7 ∧
    (∃ t, exec (.addi rd rs1 imm) s = .next t ∧
      WritesOnly rd (BitVec.ofInt 32 ((s.x rs1).toInt + imm.toInt)) s t) ∧
    (∃ t, exec (.slti rd rs1 imm) s = .next t ∧
      WritesOnly rd (if (s.x rs1).toInt < imm.toInt then 1#32 else 0#32) s t) ∧
    (∃ t, exec (.sltiu rd rs1 imm) s = .next t ∧
      WritesOnly rd (if (s.x rs1).toNat < (imm.signExtend 32).toNat then 1#32 else 0#32) s t) ∧
    (∃ t, exec (.xori rd rs1 imm) s = .next t ∧ WritesOnly rd (s.x rs1 ^^^ imm.signExtend 32) s t) ∧
    (∃ t, exec (.ori rd rs1 imm) s = .next t ∧ WritesOnly rd (s.x rs1 ||| imm.signExtend 32) s t) ∧
    (∃ t, exec (.andi rd rs1 imm) s = .next t ∧ WritesOnly rd (s.x rs1 &&& imm.signExtend 32) s t)

/-- R177 to R179, the words and, for every amount that a valid encoding carries, the results: a left shift multiplies
by a power of two modulo 2^32, a logical right shift divides the unsigned value, an arithmetic one divides the signed
value, rounding toward minus infinity. -/
def Obligations.ImmediateShiftResults : Prop :=
  ∀ (rd rs1 : Reg) (shamt : BitVec 6) (s : State), shamt.toNat < 32 →
    encode (.slli rd rs1 shamt) = 0b000000#6 ++ shamt ++ rs1 ++ 0b001#3 ++ rd ++ 0b0010011#7 ∧
    encode (.srli rd rs1 shamt) = 0b000000#6 ++ shamt ++ rs1 ++ 0b101#3 ++ rd ++ 0b0010011#7 ∧
    encode (.srai rd rs1 shamt) = 0b010000#6 ++ shamt ++ rs1 ++ 0b101#3 ++ rd ++ 0b0010011#7 ∧
    (∃ t v, exec (.slli rd rs1 shamt) s = .next t ∧
      v.toNat = (s.x rs1).toNat * 2 ^ shamt.toNat % 4294967296 ∧ WritesOnly rd v s t) ∧
    (∃ t v, exec (.srli rd rs1 shamt) s = .next t ∧
      v.toNat = (s.x rs1).toNat / 2 ^ shamt.toNat ∧ WritesOnly rd v s t) ∧
    (∃ t v, exec (.srai rd rs1 shamt) s = .next t ∧
      v.toInt = (s.x rs1).toInt / 2 ^ shamt.toNat ∧ WritesOnly rd v s t)

/-- R180 at the level of `exec`: a term whose shift amount has bit 5 set is the word with `IR[25] = 1`, and stops. -/
def Obligations.InvalidShiftAmountStops : Prop :=
  ∀ (rd rs1 : Reg) (shamt : BitVec 6) (s : State), 32 ≤ shamt.toNat →
    (exec (.slli rd rs1 shamt) s = .fault (.illegalInstruction (encode (.slli rd rs1 shamt)) s.pc) ∧
      (encode (.slli rd rs1 shamt)).getLsbD 25 = true) ∧
    (exec (.srli rd rs1 shamt) s = .fault (.illegalInstruction (encode (.srli rd rs1 shamt)) s.pc) ∧
      (encode (.srli rd rs1 shamt)).getLsbD 25 = true) ∧
    (exec (.srai rd rs1 shamt) s = .fault (.illegalInstruction (encode (.srai rd rs1 shamt)) s.pc) ∧
      (encode (.srai rd rs1 shamt)).getLsbD 25 = true)

/-- R186, R187, R191, R194, R195: the words of the five and what each writes. -/
def Obligations.RegisterArithmeticResults : Prop :=
  ∀ (rd rs1 rs2 : Reg) (s : State),
    encode (.add rd rs1 rs2) = 0b0000000#7 ++ rs2 ++ rs1 ++ 0b000#3 ++ rd ++ 0b0110011#7 ∧
    encode (.sub rd rs1 rs2) = 0b0100000#7 ++ rs2 ++ rs1 ++ 0b000#3 ++ rd ++ 0b0110011#7 ∧
    encode (.xor rd rs1 rs2) = 0b0000000#7 ++ rs2 ++ rs1 ++ 0b100#3 ++ rd ++ 0b0110011#7 ∧
    encode (.or rd rs1 rs2) = 0b0000000#7 ++ rs2 ++ rs1 ++ 0b110#3 ++ rd ++ 0b0110011#7 ∧
    encode (.and rd rs1 rs2) = 0b0000000#7 ++ rs2 ++ rs1 ++ 0b111#3 ++ rd ++ 0b0110011#7 ∧
    (∃ t, exec (.add rd rs1 rs2) s = .next t ∧
      WritesOnly rd (BitVec.ofInt 32 ((s.x rs1).toInt + (s.x rs2).toInt)) s t) ∧
    (∃ t, exec (.sub rd rs1 rs2) s = .next t ∧
      WritesOnly rd (BitVec.ofInt 32 ((s.x rs1).toInt - (s.x rs2).toInt)) s t) ∧
    (∃ t, exec (.xor rd rs1 rs2) s = .next t ∧ WritesOnly rd (s.x rs1 ^^^ s.x rs2) s t) ∧
    (∃ t, exec (.or rd rs1 rs2) s = .next t ∧ WritesOnly rd (s.x rs1 ||| s.x rs2) s t) ∧
    (∃ t, exec (.and rd rs1 rs2) s = .next t ∧ WritesOnly rd (s.x rs1 &&& s.x rs2) s t)

/-- R189, R190: the words, and the results, exact for all operands. -/
def Obligations.RegisterCompareResults : Prop :=
  ∀ (rd rs1 rs2 : Reg) (s : State),
    encode (.slt rd rs1 rs2) = 0b0000000#7 ++ rs2 ++ rs1 ++ 0b010#3 ++ rd ++ 0b0110011#7 ∧
    encode (.sltu rd rs1 rs2) = 0b0000000#7 ++ rs2 ++ rs1 ++ 0b011#3 ++ rd ++ 0b0110011#7 ∧
    (∃ t, exec (.slt rd rs1 rs2) s = .next t ∧
      WritesOnly rd (if (s.x rs1).toInt < (s.x rs2).toInt then 1#32 else 0#32) s t) ∧
    (∃ t, exec (.sltu rd rs1 rs2) s = .next t ∧
      WritesOnly rd (if (s.x rs1).toNat < (s.x rs2).toNat then 1#32 else 0#32) s t)

/-- R188, R192, R193: the words, and the results, by the five low bits of x[rs2]. -/
def Obligations.RegisterShiftResults : Prop :=
  ∀ (rd rs1 rs2 : Reg) (s : State) (n : Nat), n = (s.x rs2).toNat % 32 →
    encode (.sll rd rs1 rs2) = 0b0000000#7 ++ rs2 ++ rs1 ++ 0b001#3 ++ rd ++ 0b0110011#7 ∧
    encode (.srl rd rs1 rs2) = 0b0000000#7 ++ rs2 ++ rs1 ++ 0b101#3 ++ rd ++ 0b0110011#7 ∧
    encode (.sra rd rs1 rs2) = 0b0100000#7 ++ rs2 ++ rs1 ++ 0b101#3 ++ rd ++ 0b0110011#7 ∧
    (∃ t v, exec (.sll rd rs1 rs2) s = .next t ∧ v.toNat = (s.x rs1).toNat * 2 ^ n % 4294967296 ∧
      WritesOnly rd v s t) ∧
    (∃ t v, exec (.srl rd rs1 rs2) s = .next t ∧ v.toNat = (s.x rs1).toNat / 2 ^ n ∧ WritesOnly rd v s t) ∧
    (∃ t v, exec (.sra rd rs1 rs2) s = .next t ∧ v.toInt = (s.x rs1).toInt / 2 ^ n ∧ WritesOnly rd v s t)

/-- R215: the word, and the low 32 bits of the signed product. -/
def Obligations.MultiplyResult : Prop :=
  ∀ (rd rs1 rs2 : Reg) (s : State),
    encode (.mul rd rs1 rs2) = 0b0000001#7 ++ rs2 ++ rs1 ++ 0b000#3 ++ rd ++ 0b0110011#7 ∧
    ∃ t v, exec (.mul rd rs1 rs2) s = .next t ∧
      (v.toNat : Int) = (s.x rs1).toInt * (s.x rs2).toInt % 4294967296 ∧ WritesOnly rd v s t

/-- R216 (a), (b): the unsigned reading of the operands gives the same product, and the operands may be exchanged. -/
def Obligations.MultiplyIgnoresSignednessAndOrder : Prop :=
  ∀ (rd rs1 rs2 : Reg) (s : State),
    (∃ t v, exec (.mul rd rs1 rs2) s = .next t ∧
      v.toNat = (s.x rs1).toNat * (s.x rs2).toNat % 4294967296 ∧ WritesOnly rd v s t) ∧
    exec (.mul rd rs1 rs2) s = exec (.mul rd rs2 rs1) s

/-- R201 to R203, the words and the effect for a plain register of CSR_MAP: the old value to `x[rd]`, the new value to
the CSR, from the operand as it was before the instruction. -/
def Obligations.CsrRegisterFormResults : Prop :=
  ∀ (rd rs1 : Reg) (a : CsrAddr) (s : State) (e : CsrEntry), csrFind s.csrs a = some e → e.decl.plain →
    encode (.csrrw rd a rs1) = a ++ rs1 ++ 0b001#3 ++ rd ++ 0b1110011#7 ∧
    encode (.csrrs rd a rs1) = a ++ rs1 ++ 0b010#3 ++ rd ++ 0b1110011#7 ∧
    encode (.csrrc rd a rs1) = a ++ rs1 ++ 0b011#3 ++ rd ++ 0b1110011#7 ∧
    CsrRule (.csrrw rd a rs1) rd a e.value (s.x rs1) s ∧
    CsrRule (.csrrs rd a rs1) rd a e.value (e.value ||| s.x rs1) s ∧
    CsrRule (.csrrc rd a rs1) rd a e.value (e.value &&& ~~~(s.x rs1)) s

/-- R204 to R206, the words and the effect for a plain register of CSR_MAP: the operand is the five bits of the
instruction, zero-extended. -/
def Obligations.CsrImmediateFormResults : Prop :=
  ∀ (rd : Reg) (zimm : BitVec 5) (a : CsrAddr) (s : State) (e : CsrEntry), csrFind s.csrs a = some e →
    e.decl.plain →
    encode (.csrrwi rd a zimm) = a ++ zimm ++ 0b101#3 ++ rd ++ 0b1110011#7 ∧
    encode (.csrrsi rd a zimm) = a ++ zimm ++ 0b110#3 ++ rd ++ 0b1110011#7 ∧
    encode (.csrrci rd a zimm) = a ++ zimm ++ 0b111#3 ++ rd ++ 0b1110011#7 ∧
    CsrRule (.csrrwi rd a zimm) rd a e.value (zimm.zeroExtend 32) s ∧
    CsrRule (.csrrsi rd a zimm) rd a e.value (e.value ||| zimm.zeroExtend 32) s ∧
    CsrRule (.csrrci rd a zimm) rd a e.value (e.value &&& ~~~(zimm.zeroExtend 32)) s

/-- The six CSR instructions on a CSR without side effects, whatever its mask of writable bits (R35): the bits in the
mask take those of the new value, the others stay. For a mask of ones this is R201 to R206; that the others stay is
the model's reading, notes/assumptions/9.md. -/
def Obligations.CsrPartialMaskResults : Prop :=
  ∀ (rd rs1 : Reg) (zimm : BitVec 5) (a : CsrAddr) (s : State) (e : CsrEntry), csrFind s.csrs a = some e →
    e.decl.effects = [] →
    (∀ (v : Word) (k : Nat), (e.written v).getLsbD k =
      if e.decl.writable.getLsbD k then v.getLsbD k else e.value.getLsbD k) ∧
    CsrRule (.csrrw rd a rs1) rd a e.value (e.written (s.x rs1)) s ∧
    CsrRule (.csrrs rd a rs1) rd a e.value (e.written (e.value ||| s.x rs1)) s ∧
    CsrRule (.csrrc rd a rs1) rd a e.value (e.written (e.value &&& ~~~(s.x rs1))) s ∧
    CsrRule (.csrrwi rd a zimm) rd a e.value (e.written (zimm.zeroExtend 32)) s ∧
    CsrRule (.csrrsi rd a zimm) rd a e.value (e.written (e.value ||| zimm.zeroExtend 32)) s ∧
    CsrRule (.csrrci rd a zimm) rd a e.value (e.written (e.value &&& ~~~(zimm.zeroExtend 32))) s

/-- R200: the six CSR instructions on any CSR of CSR_MAP always read and always write, also where its row declares side
effects, which belong to the row (R35). What a declared side effect can be is the model's choice,
notes/assumptions/5.md. -/
def Obligations.CsrSideEffectResults : Prop :=
  ∀ (rd rs1 : Reg) (zimm : BitVec 5) (a : CsrAddr) (s : State) (e : CsrEntry), csrFind s.csrs a = some e →
    CsrEffectRule (.csrrw rd a rs1) rd a e (s.x rs1) s ∧
    CsrEffectRule (.csrrs rd a rs1) rd a e (e.value ||| s.x rs1) s ∧
    CsrEffectRule (.csrrc rd a rs1) rd a e (e.value &&& ~~~(s.x rs1)) s ∧
    CsrEffectRule (.csrrwi rd a zimm) rd a e (zimm.zeroExtend 32) s ∧
    CsrEffectRule (.csrrsi rd a zimm) rd a e (e.value ||| zimm.zeroExtend 32) s ∧
    CsrEffectRule (.csrrci rd a zimm) rd a e (e.value &&& ~~~(zimm.zeroExtend 32)) s

/-- R207, R240: a CSR instruction whose address CSR_MAP does not have faults, in all six forms. -/
def Obligations.UnimplementedCsrFaults : Prop :=
  ∀ (rd rs1 : Reg) (zimm : BitVec 5) (a : CsrAddr) (s : State), (∀ e ∈ s.csrs, e.decl.addr ≠ a) →
    exec (.csrrw rd a rs1) s = .fault (.unimplementedCSR a s.pc) ∧
    exec (.csrrs rd a rs1) s = .fault (.unimplementedCSR a s.pc) ∧
    exec (.csrrc rd a rs1) s = .fault (.unimplementedCSR a s.pc) ∧
    exec (.csrrwi rd a zimm) s = .fault (.unimplementedCSR a s.pc) ∧
    exec (.csrrsi rd a zimm) s = .fault (.unimplementedCSR a s.pc) ∧
    exec (.csrrci rd a zimm) s = .fault (.unimplementedCSR a s.pc)

/-- The model's reading of R35's mask of writable bits (notes/assumptions/9.md): a bit outside the mask keeps its
value, whatever the instruction, unless a side effect that CSR_MAP declares acts on the CSR. -/
def Obligations.CsrBitsOutsideTheMaskAreKept : Prop :=
  ∀ (i : Instr) (s t : State) (a : CsrAddr) (e : CsrEntry) (k : Nat), exec i s = .next t →
    csrFind s.csrs a = some e → (∀ c ∈ s.csrs, NotATarget a c.decl) → e.decl.writable.getLsbD k = false →
    ∃ v, t.csr a = some v ∧ v.getLsbD k = e.value.getLsbD k

/-- R220, R221: the word of PUSH, and PUSH with the stack pointer left alone. The stored word is the register's value,
whatever the byte order. -/
def Obligations.PushResult : Prop :=
  ∀ (uimm : BitVec 6) (reg : Reg) (s : State) (a : Word), s.cfg.spAdjust = .unchanged →
    a = s.x 2#5 + pushUimm s.cfg uimm →
    encode (.swsp uimm reg) = 0#16 ++ 0b110#3 ++ uimm ++ reg ++ 0b10#2 ∧
    (s.accessible a .word = true →
      ∃ t, exec (.swsp uimm reg) s = .next t ∧ t.wordAt a = s.x reg ∧ SameMemoryOutside a .word s t ∧
        t.pc = s.pc + 4#32 ∧ SameRegs s t ∧ SameSystem s t) ∧
    AccessStops (.swsp uimm reg) a .word s

/-- R220, R222: the word of POP, and POP with the stack pointer left alone, under either reading of its destination
field; under the default reading the destination is `IR[6:2]` and the displacement is PUSH's (the other reading's
displacement is the model's, notes/assumptions/7.md). -/
def Obligations.PopResult : Prop :=
  ∀ (uimm : BitVec 6) (reg : Reg) (s : State) (a : Word), s.cfg.spAdjust = .unchanged →
    a = s.x 2#5 + popUimm s.cfg uimm reg →
    encode (.lwsp uimm reg) = 0#16 ++ 0b010#3 ++ uimm ++ reg ++ 0b10#2 ∧
    (s.accessible a .word = true →
      ∃ t, exec (.lwsp uimm reg) s = .next t ∧ WritesOnly (popRd s.cfg uimm reg) (s.wordAt a) s t) ∧
    AccessStops (.lwsp uimm reg) a .word s ∧
    (s.cfg.popRd = .ir6to2 → popRd s.cfg uimm reg = reg ∧ popUimm s.cfg uimm reg = pushUimm s.cfg uimm) ∧
    (s.cfg.popRd = .ir11to7 → (popRd s.cfg uimm reg).toNat = uimm.toNat % 32)

/-- R98: the default layout of `uimm` is `IR[8:7]` over `IR[12:9]` over two zeros, so a multiple of 4 in 0 to 252; the
plain layout is the field; the two agree where `IR[12:7] = 0`. -/
def Obligations.StackDisplacementLayouts : Prop :=
  ∀ (p : Params) (uimm : BitVec 6),
    (p.spUimm = .cSwsp → (pushUimm p uimm).toNat = uimm.toNat % 4 * 64 + uimm.toNat / 4 * 4 ∧
      (pushUimm p uimm).toNat % 4 = 0 ∧ (pushUimm p uimm).toNat ≤ 252) ∧
    (p.spUimm = .plain → (pushUimm p uimm).toNat = uimm.toNat) ∧
    (uimm = 0#6 → pushUimm p uimm = 0#32)

/-- R223: PUSH under the two readings of SP_AUTO_ADJUST that move the stack pointer, and what stops it. The store takes
the register's value from before the move (R23; notes/assumptions/17.md for a store of x[2] itself). -/
def Obligations.PushMovesTheStackPointer : Prop :=
  ∀ (uimm : BitVec 6) (reg : Reg) (s : State) (a : Word), s.cfg.spAdjust ≠ .unchanged →
    a = (if s.cfg.spAdjust = .pushPredecPopPostinc then s.x 2#5 - 4#32 else s.x 2#5) + pushUimm s.cfg uimm →
    (s.accessible a .word = true →
      ∃ t, exec (.swsp uimm reg) s = .next t ∧ t.wordAt a = s.x reg ∧ SameMemoryOutside a .word s t ∧
        t.pc = s.pc + 4#32 ∧ RegsAfterWrite 2#5 (s.x 2#5 - 4#32) s t ∧ SameSystem s t) ∧
    AccessStops (.swsp uimm reg) a .word s

/-- R223: POP under the two readings of SP_AUTO_ADJUST that move the stack pointer, and what stops it. Every register
but x[2] and the destination is as before, the destination takes the word and x[2] moves; where the destination is
x[2] itself the spec leaves it undefined (notes/assumptions/6.md) and every other effect stands. -/
def Obligations.PopMovesTheStackPointer : Prop :=
  ∀ (uimm : BitVec 6) (reg rd : Reg) (s : State) (a : Word), s.cfg.spAdjust ≠ .unchanged →
    rd = popRd s.cfg uimm reg →
    a = (if s.cfg.spAdjust = .pushPredecPopPostinc then s.x 2#5 else s.x 2#5 + 4#32) + popUimm s.cfg uimm reg →
    (s.accessible a .word = true →
      ∃ t, exec (.lwsp uimm reg) s = .next t ∧ t.pc = s.pc + 4#32 ∧ SameMemory s t ∧ t.csrs = s.csrs ∧
        t.cfg = s.cfg ∧ t.io = s.io ∧ (∀ r, r ≠ 2#5 → r ≠ rd → t.x r = s.x r) ∧ t.x 0#5 = 0#32 ∧
        (rd ≠ 2#5 → t.free = s.free ∧ t.x 2#5 = s.x 2#5 + 4#32 ∧ (rd ≠ 0#5 → t.x rd = s.wordAt a))) ∧
    AccessStops (.lwsp uimm reg) a .word s

/-- The model's choice, notes/assumptions/11.md (R58 and R59 leave a device to the platform): a load that touches a
device completes. It gets from each byte of memory what memory holds, from each byte of a device a free value, and
the devices have seen the read if MEM_MAP gives it side effects. -/
def Obligations.DeviceLoadResults : Prop :=
  ∀ (rd rs1 : Reg) (offset : BitVec 12) (uimm : BitVec 6) (s : State) (a : Word),
    a = s.x rs1 + offset.signExtend 32 →
    (∀ b, s.deviceAt b = false → s.answer b = s.byteAt b) ∧
    (s.cfg.byteOrder = .little → s.answerHalf a = s.answer (a + 1#32) ++ s.answer a ∧
      s.answerWord a = s.answer (a + 3#32) ++ s.answer (a + 2#32) ++ s.answer (a + 1#32) ++ s.answer a) ∧
    (TouchesDevice a .byte s →
      (∃ v, v.toInt = (s.answer a).toInt ∧ DeviceLoad (.lb rd rs1 offset) rd a .byte v s) ∧
      (∃ v, v.toNat = (s.answer a).toNat ∧ DeviceLoad (.lbu rd rs1 offset) rd a .byte v s)) ∧
    (TouchesDevice a .half s →
      (∃ v, v.toInt = (s.answerHalf a).toInt ∧ DeviceLoad (.lh rd rs1 offset) rd a .half v s) ∧
      (∃ v, v.toNat = (s.answerHalf a).toNat ∧ DeviceLoad (.lhu rd rs1 offset) rd a .half v s)) ∧
    (TouchesDevice a .word s → DeviceLoad (.lw rd rs1 offset) rd a .word (s.answerWord a) s) ∧
    (TouchesDevice (s.popAddr uimm rd) .word s →
      (s.cfg.spAdjust = .unchanged → DeviceLoad (.lwsp uimm rd) (popRd s.cfg uimm rd) (s.popAddr uimm rd) .word
        (s.answerWord (s.popAddr uimm rd)) s) ∧
      ∃ t, exec (.lwsp uimm rd) s = .next t ∧ t.pc = s.pc + 4#32 ∧ SameMemory s t ∧ t.csrs = s.csrs ∧
        t.cfg = s.cfg ∧ SeenRead (s.popAddr uimm rd) .word s t)

/-- The model's choice, notes/assumptions/11.md: a store that touches a device completes. The devices have seen the
write, and its bytes are stored as R53 says. -/
def Obligations.DeviceStoreResults : Prop :=
  ∀ (rs1 : Reg) (offset : BitVec 12) (low : BitVec 5) (uimm : BitVec 6) (s : State) (a v : Word),
    a = s.x rs1 + offset.signExtend 32 → v = s.x (storeRs2 s.cfg offset low) →
    (TouchesDevice a .byte s → DeviceStore (.sb rs1 offset low) a .byte (v &&& 0xFF#32) (s.x 2#5)
      (fun t => t.byteAt a = v.extractLsb' 0 8) s) ∧
    (TouchesDevice a .half s → DeviceStore (.sh rs1 offset low) a .half (v &&& 0xFFFF#32) (s.x 2#5)
      (fun t => t.halfAt a = v.extractLsb' 0 16) s) ∧
    (TouchesDevice a .word s → DeviceStore (.sw rs1 offset low) a .word v (s.x 2#5) (fun t => t.wordAt a = v) s) ∧
    (TouchesDevice (s.pushAddr uimm) .word s → DeviceStore (.swsp uimm low) (s.pushAddr uimm) .word (s.x low)
      (if s.cfg.spAdjust = .unchanged then s.x 2#5 else s.x 2#5 - 4#32)
      (fun t => t.wordAt (s.pushAddr uimm) = s.x low) s)

/-- The model's choice, notes/assumptions/11.md: a fetch that touches a device gets a word of which the device's bytes
are free; the step is that word's instruction, or its `IllegalInstruction`. -/
def Obligations.DeviceFetchResults : Prop :=
  ∀ s : State, TouchesDevice s.pc .word s →
    step s = match decode (s.answerWord s.pc) with
      | .ok i => exec i { s with
          free := s.free + 1
          io := if s.readEffects s.pc .word then .read s.pc .word :: s.io else s.io
          hw := { s.hw with ir := s.answerWord s.pc, mar := s.pc } }
      | .error _ => .fault (.illegalInstruction (s.answerWord s.pc) s.pc)

/-! ## Rules about the whole machine -/

/-- R21, R28, R50: the entry for x[0] is 0, the pc is a multiple of 4 and memory is in its canonical form after every
step from a state where they hold. -/
def Obligations.EveryStepKeepsTheInvariant : Prop :=
  ∀ s t : State, Inv s → step s = .next t → Inv t

/-- The invariant holds after reset, under any parameters, over any canonical memory. -/
def Obligations.ResetMeetsTheInvariant : Prop :=
  Inv State.reset ∧
  ∀ (cfg : Params) (csrMap : List CsrDecl) (mem : Memory), mem.wf = true → Inv (State.resetWith cfg csrMap mem)

/-- R45, R261: the pc is 0, registers per RESET_REGS with x[0] at 0, CSRs per CSR_MAP, memory as it was loaded, and
the first fetch is at address 0. -/
def Obligations.ResetState : Prop :=
  ∀ (cfg : Params) (csrMap : List CsrDecl) (mem : Memory) (s : State), s = State.resetWith cfg csrMap mem →
    s.pc = 0#32 ∧ s.x 0#5 = 0#32 ∧ (∀ r : Reg, r ≠ 0#5 → s.x r = cfg.resetRegs[r.toNat]) ∧
    s.csrs.map CsrEntry.decl = csrMap ∧ (∀ e ∈ s.csrs, e.value = e.decl.resetValue) ∧ s.mem = mem ∧
    s.cfg = cfg ∧ s.fetch = s.readWord 0#32

/-- R268: asserting `Reset` during a run returns the pc to 0 and leaves memory alone. That the parameters and the rows
of CSR_MAP stay is the model's clause, notes/assumptions/16.md. -/
def Obligations.ResetDuringARun : Prop :=
  ∀ s : State, s.assertReset.pc = 0#32 ∧ SameMemory s s.assertReset ∧ s.assertReset.cfg = s.cfg ∧
    s.assertReset.csrs.map CsrEntry.decl = s.csrs.map CsrEntry.decl

/-- R21: x[0] reads as 0 and a write to it changes nothing; no instruction writes its entry in the register file. -/
def Obligations.NoInstructionWritesX0 : Prop :=
  (∀ (s : State) (v : Word), s.x 0#5 = 0#32 ∧ s.setX 0#5 v = s) ∧
  ∀ (i : Instr) (s t : State), exec i s = .next t → t.regs[0] = s.regs[0] ∧ t.x 0#5 = 0#32

/-- R11, R25: only a jump or a branch leaves the pc anywhere but at `pc + 4`, and where one does, the new pc is a
multiple of 4 (R28). -/
def Obligations.PcAdvancesOrIsAlignedTarget : Prop :=
  ∀ (i : Instr) (s t : State), exec i s = .next t →
    (i.kind ≠ .jump → i.kind ≠ .branch → t.pc = s.pc + 4#32) ∧
    (i.kind = .jump → t.pc.toNat % 4 = 0) ∧
    (i.kind = .branch → t.pc = s.pc + 4#32 ∨ t.pc.toNat % 4 = 0)

/-- R56: no instruction but the three stores and SWSP changes memory. -/
def Obligations.OnlyStoresChangeMemory : Prop :=
  ∀ (i : Instr) (s t : State), exec i s = .next t → i.kind ≠ .store → t.mem = s.mem

/-- R34: no instruction but the six CSR instructions reads or writes a CSR. With the CSR file replaced, any other
instruction does what it did, and the file is left as it was put. -/
def Obligations.OnlyCsrInstructionsTouchCsrs : Prop :=
  ∀ (i : Instr) (s : State) (c : List CsrEntry), i.kind ≠ .csr →
    exec i (s.withCsrs c) = mapNext (State.withCsrs c) (exec i s)

/-- R8, R35: a step changes neither the parameters nor which CSRs exist. -/
def Obligations.ParametersNeverChange : Prop :=
  ∀ s t : State, step s = .next t → t.cfg = s.cfg ∧ t.csrs.map CsrEntry.decl = s.csrs.map CsrEntry.decl

/-- R39: nothing a program can read depends on the IR, the MAR, the Counter or the shift registers. Two states that
differ in them alone give the same outcome, but for them. -/
def Obligations.DatapathRegistersAreUnobservable : Prop :=
  ∀ (s : State) (h : Datapath), forgetDatapath (step { s with hw := h }) = forgetDatapath (step s)

/-- R170, R185, R215: an instruction that computes raises nothing, and changes at most one register. -/
def Obligations.ComputeInstructionsAlwaysComplete : Prop :=
  ∀ (i : Instr) (s : State), i.kind = .compute → i.wellFormed = true →
    ∃ t, exec i s = .next t ∧ t.pc = s.pc + 4#32 ∧ SameMemory s t ∧ SameSystem s t ∧
      ∃ rd, ∀ r, r ≠ rd → t.x r = s.x r

/-- No step of any state is refused: every instruction runs, also on a device (notes/assumptions/11.md) and on a CSR
with side effects (R200, notes/assumptions/5.md). R239: where all of the address space is plain memory, no step raises
`AccessFault`. -/
def Obligations.NoRefusalAndNoAccessFaultInPlainMemory : Prop :=
  (∀ (s : State) (r : Refusal), step s ≠ .refused r) ∧
  ∀ s : State, AllMemory s → ∀ a pc, step s ≠ .fault (.accessFault a pc)

/-- R64: a word that SW stores to plain memory is the word that a fetch from that address gives, with nothing
between. -/
def Obligations.StoredWordIsFetched : Prop :=
  ∀ (rs1 : Reg) (offset : BitVec 12) (low : BitVec 5) (s t : State),
    s.plainMemory (s.x rs1 + offset.signExtend 32) .word = true → exec (.sw rs1 offset low) s = .next t →
    ({ t with pc := s.x rs1 + offset.signExtend 32 } : State).fetch = .ok (s.x (storeRs2 s.cfg offset low))

/-- R52, R53, R58: what is written to plain memory at a width is read back at that width, in either byte order. -/
def Obligations.ReadGivesWhatWasWritten : Prop :=
  ∀ (s t : State) (a : Word),
    (∀ v, s.plainMemory a .byte = true → s.writeByte a v = .ok t → t.readByte a = .ok v) ∧
    (∀ v, s.plainMemory a .half = true → s.writeHalf a v = .ok t → t.readHalf a = .ok v) ∧
    (∀ v, s.plainMemory a .word = true → s.writeWord a v = .ok t → t.readWord a = .ok v)

/-- R51, R52: which byte of memory is which byte of a halfword or a word, in each byte order. -/
def Obligations.ByteOrderOfReads : Prop :=
  ∀ (s : State) (a : Word),
    (s.cfg.byteOrder = .little →
      s.halfAt a = s.byteAt (a + 1#32) ++ s.byteAt a ∧
      s.wordAt a = s.byteAt (a + 3#32) ++ s.byteAt (a + 2#32) ++ s.byteAt (a + 1#32) ++ s.byteAt a) ∧
    (s.cfg.byteOrder = .big →
      s.halfAt a = s.byteAt a ++ s.byteAt (a + 1#32) ∧
      s.wordAt a = s.byteAt a ++ s.byteAt (a + 1#32) ++ s.byteAt (a + 2#32) ++ s.byteAt (a + 3#32))

/-- R51: with the default byte order, accesses of different widths to plain memory see the same bytes: the parts of a
word that was written, at their addresses. R51's example is the word 0x12345678. -/
def Obligations.MixedWidthAccessesSeeTheSameBytes : Prop :=
  ∀ (s t : State) (a v : Word), s.cfg.byteOrder = .little → s.plainMemory a .word = true → s.writeWord a v = .ok t →
    t.readByte a = .ok (v.extractLsb' 0 8) ∧ t.readByte (a + 1#32) = .ok (v.extractLsb' 8 8) ∧
    t.readByte (a + 2#32) = .ok (v.extractLsb' 16 8) ∧ t.readByte (a + 3#32) = .ok (v.extractLsb' 24 8) ∧
    t.readHalf a = .ok (v.extractLsb' 0 16) ∧ t.readHalf (a + 2#32) = .ok (v.extractLsb' 16 16)

/-- R263: `jal x0, 0` and `beq x0, x0, 0` end a run. -/
def Obligations.SelfJumpIsFinal : Prop :=
  ∀ s : State, s.accessible s.pc .word = true →
    s.wordAt s.pc = 0x0000006F#32 ∨ s.wordAt s.pc = 0x00000063#32 → Final s

/-- R263: the hardware executes the final loop for ever. The state after a step from a final state whose instruction
stands in plain memory is final. (A device may give another word at the next fetch.) -/
def Obligations.FinalStatesStayFinal : Prop :=
  ∀ s t : State, Final s → s.plainMemory s.pc .word = true → step s = .next t → SameProgramState s t ∧ Final t

/-! ## The blocks that produce the results -/

/-- R252, R266: a shift register and the Counter, clocked as many times as the Counter was loaded with, hold the
shifted value and zero: the blocks compute what the instructions' rules say. -/
def Obligations.ShiftBlocksComputeTheShift : Prop :=
  ∀ (k : ShiftKind) (v : Word) (n : Nat), n < 32 →
    shiftClocks k n ⟨v, BitVec.ofNat 32 n⟩ = ⟨shiftValue k v n, 0#32⟩

/-- R29, R140: the comparisons of the branches, read off the status bits of the subtraction (with the carry of
notes/assumptions/8.md); the signed one needs more than those bits. -/
def Obligations.ComparisonsFromStatusBits : Prop :=
  ∀ a b : Word,
    (condEq a b = (subStatus a b).zero) ∧ (condNe a b = !(subStatus a b).zero) ∧
    (b ≠ 0#32 → condGeu a b = (subStatus a b).carry) ∧
    (condLt a b = ((subStatus a b).sign ^^ ((a.msb ^^ b.msb) && ((subStatus a b).sign ^^ a.msb))))

/-- What each instruction leaves in the registers that no instruction names: the model's reading of the blocks,
notes/assumptions/4.md. The IR stays; the MAR has the address of the load or store, if there was one; the Counter and
the shift registers stay, but for a shift, which leaves zero and its result in its own block. -/
def Obligations.DatapathRegistersAfterAnInstruction : Prop :=
  (∀ (i : Instr) (s t : State), exec i s = .next t →
    t.hw.ir = s.hw.ir ∧ t.hw.mar = (memAddr s i).getD s.hw.mar ∧
    (i.isShift = false → t.hw.counter = s.hw.counter ∧ t.hw.leftShift = s.hw.leftShift ∧
      t.hw.logicalShiftRight = s.hw.logicalShiftRight ∧ t.hw.arithmeticShiftRight = s.hw.arithmeticShiftRight)) ∧
  (∀ (rd rs1 rs2 : Reg) (shamt : BitVec 6) (s t : State) (n m : Nat), n = shamt.toNat % 32 →
    m = (s.x rs2).toNat % 32 →
    (exec (.slli rd rs1 shamt) s = .next t → t.hw = { s.hw with counter := 0#32, leftShift := s.x rs1 <<< n }) ∧
    (exec (.srli rd rs1 shamt) s = .next t →
      t.hw = { s.hw with counter := 0#32, logicalShiftRight := s.x rs1 >>> n }) ∧
    (exec (.srai rd rs1 shamt) s = .next t →
      t.hw = { s.hw with counter := 0#32, arithmeticShiftRight := (s.x rs1).sshiftRight n }) ∧
    (exec (.sll rd rs1 rs2) s = .next t → t.hw = { s.hw with counter := 0#32, leftShift := s.x rs1 <<< m }) ∧
    (exec (.srl rd rs1 rs2) s = .next t →
      t.hw = { s.hw with counter := 0#32, logicalShiftRight := s.x rs1 >>> m }) ∧
    (exec (.sra rd rs1 rs2) s = .next t →
      t.hw = { s.hw with counter := 0#32, arithmeticShiftRight := (s.x rs1).sshiftRight m }))
end

