-- ==== Sys2Proof/Laws/State.lean ====
section
/-! SUPPORT. What each update of the state does to each field, so that no later proof unfolds a record update. -/

namespace Sys2Proof.Machine

/-! `State.setX` -/

@[simp] theorem State.setX_pc (s : State) (i : Reg) (v : Word) : (s.setX i v).pc = s.pc := by
  unfold State.setX; split <;> rfl
@[simp] theorem State.setX_csrs (s : State) (i : Reg) (v : Word) : (s.setX i v).csrs = s.csrs := by
  unfold State.setX; split <;> rfl
@[simp] theorem State.setX_mem (s : State) (i : Reg) (v : Word) : (s.setX i v).mem = s.mem := by
  unfold State.setX; split <;> rfl
@[simp] theorem State.setX_hw (s : State) (i : Reg) (v : Word) : (s.setX i v).hw = s.hw := by
  unfold State.setX; split <;> rfl
@[simp] theorem State.setX_cfg (s : State) (i : Reg) (v : Word) : (s.setX i v).cfg = s.cfg := by
  unfold State.setX; split <;> rfl
@[simp] theorem State.setX_free (s : State) (i : Reg) (v : Word) : (s.setX i v).free = s.free := by
  unfold State.setX; split <;> rfl
@[simp] theorem State.setX_io (s : State) (i : Reg) (v : Word) : (s.setX i v).io = s.io := by
  unfold State.setX; split <;> rfl

/-! `State.setPc` -/

@[simp] theorem State.setPc_regs (s : State) (t : Word) : (s.setPc t).regs = s.regs := rfl
@[simp] theorem State.setPc_csrs (s : State) (t : Word) : (s.setPc t).csrs = s.csrs := rfl
@[simp] theorem State.setPc_mem (s : State) (t : Word) : (s.setPc t).mem = s.mem := rfl
@[simp] theorem State.setPc_hw (s : State) (t : Word) : (s.setPc t).hw = s.hw := rfl
@[simp] theorem State.setPc_cfg (s : State) (t : Word) : (s.setPc t).cfg = s.cfg := rfl
@[simp] theorem State.setPc_free (s : State) (t : Word) : (s.setPc t).free = s.free := rfl
@[simp] theorem State.setPc_io (s : State) (t : Word) : (s.setPc t).io = s.io := rfl

/-! `State.advance` -/

@[simp] theorem State.advance_regs (s : State) : (s.advance).regs = s.regs := rfl
@[simp] theorem State.advance_csrs (s : State) : (s.advance).csrs = s.csrs := rfl
@[simp] theorem State.advance_mem (s : State) : (s.advance).mem = s.mem := rfl
@[simp] theorem State.advance_hw (s : State) : (s.advance).hw = s.hw := rfl
@[simp] theorem State.advance_cfg (s : State) : (s.advance).cfg = s.cfg := rfl
@[simp] theorem State.advance_free (s : State) : (s.advance).free = s.free := rfl
@[simp] theorem State.advance_io (s : State) : (s.advance).io = s.io := rfl

/-! `State.latchFetch` -/

@[simp] theorem State.latchFetch_regs (s : State) (w : Word) : (s.latchFetch w).regs = s.regs := rfl
@[simp] theorem State.latchFetch_pc (s : State) (w : Word) : (s.latchFetch w).pc = s.pc := rfl
@[simp] theorem State.latchFetch_csrs (s : State) (w : Word) : (s.latchFetch w).csrs = s.csrs := rfl
@[simp] theorem State.latchFetch_mem (s : State) (w : Word) : (s.latchFetch w).mem = s.mem := rfl
@[simp] theorem State.latchFetch_cfg (s : State) (w : Word) : (s.latchFetch w).cfg = s.cfg := rfl
@[simp] theorem State.latchFetch_free (s : State) (w : Word) : (s.latchFetch w).free = s.free := rfl
@[simp] theorem State.latchFetch_io (s : State) (w : Word) : (s.latchFetch w).io = s.io := rfl

/-! `State.latchAddr` -/

@[simp] theorem State.latchAddr_regs (s : State) (a : Word) : (s.latchAddr a).regs = s.regs := rfl
@[simp] theorem State.latchAddr_pc (s : State) (a : Word) : (s.latchAddr a).pc = s.pc := rfl
@[simp] theorem State.latchAddr_csrs (s : State) (a : Word) : (s.latchAddr a).csrs = s.csrs := rfl
@[simp] theorem State.latchAddr_mem (s : State) (a : Word) : (s.latchAddr a).mem = s.mem := rfl
@[simp] theorem State.latchAddr_cfg (s : State) (a : Word) : (s.latchAddr a).cfg = s.cfg := rfl
@[simp] theorem State.latchAddr_free (s : State) (a : Word) : (s.latchAddr a).free = s.free := rfl
@[simp] theorem State.latchAddr_io (s : State) (a : Word) : (s.latchAddr a).io = s.io := rfl

/-! `State.latchShift` -/

@[simp] theorem State.latchShift_regs (s : State) (k : ShiftKind) (v : Word) : (s.latchShift k v).regs = s.regs := by
  cases k <;> rfl
@[simp] theorem State.latchShift_pc (s : State) (k : ShiftKind) (v : Word) : (s.latchShift k v).pc = s.pc := by
  cases k <;> rfl
@[simp] theorem State.latchShift_csrs (s : State) (k : ShiftKind) (v : Word) : (s.latchShift k v).csrs = s.csrs := by
  cases k <;> rfl
@[simp] theorem State.latchShift_mem (s : State) (k : ShiftKind) (v : Word) : (s.latchShift k v).mem = s.mem := by
  cases k <;> rfl
@[simp] theorem State.latchShift_cfg (s : State) (k : ShiftKind) (v : Word) : (s.latchShift k v).cfg = s.cfg := by
  cases k <;> rfl
@[simp] theorem State.latchShift_free (s : State) (k : ShiftKind) (v : Word) : (s.latchShift k v).free = s.free := by
  cases k <;> rfl
@[simp] theorem State.latchShift_io (s : State) (k : ShiftKind) (v : Word) : (s.latchShift k v).io = s.io := by
  cases k <;> rfl

/-! `State.putByte` -/

@[simp] theorem State.putByte_regs (s : State) (a : Word) (b : Byte) : (s.putByte a b).regs = s.regs := rfl
@[simp] theorem State.putByte_pc (s : State) (a : Word) (b : Byte) : (s.putByte a b).pc = s.pc := rfl
@[simp] theorem State.putByte_csrs (s : State) (a : Word) (b : Byte) : (s.putByte a b).csrs = s.csrs := rfl
@[simp] theorem State.putByte_hw (s : State) (a : Word) (b : Byte) : (s.putByte a b).hw = s.hw := rfl
@[simp] theorem State.putByte_cfg (s : State) (a : Word) (b : Byte) : (s.putByte a b).cfg = s.cfg := rfl
@[simp] theorem State.putByte_free (s : State) (a : Word) (b : Byte) : (s.putByte a b).free = s.free := rfl
@[simp] theorem State.putByte_io (s : State) (a : Word) (b : Byte) : (s.putByte a b).io = s.io := rfl

/-! `State.putHalf` -/

@[simp] theorem State.putHalf_regs (s : State) (a : Word) (v : Half) : (s.putHalf a v).regs = s.regs := rfl
@[simp] theorem State.putHalf_pc (s : State) (a : Word) (v : Half) : (s.putHalf a v).pc = s.pc := rfl
@[simp] theorem State.putHalf_csrs (s : State) (a : Word) (v : Half) : (s.putHalf a v).csrs = s.csrs := rfl
@[simp] theorem State.putHalf_hw (s : State) (a : Word) (v : Half) : (s.putHalf a v).hw = s.hw := rfl
@[simp] theorem State.putHalf_cfg (s : State) (a : Word) (v : Half) : (s.putHalf a v).cfg = s.cfg := rfl
@[simp] theorem State.putHalf_free (s : State) (a : Word) (v : Half) : (s.putHalf a v).free = s.free := rfl
@[simp] theorem State.putHalf_io (s : State) (a : Word) (v : Half) : (s.putHalf a v).io = s.io := rfl

/-! `State.putWord` -/

@[simp] theorem State.putWord_regs (s : State) (a : Word) (v : Word) : (s.putWord a v).regs = s.regs := rfl
@[simp] theorem State.putWord_pc (s : State) (a : Word) (v : Word) : (s.putWord a v).pc = s.pc := rfl
@[simp] theorem State.putWord_csrs (s : State) (a : Word) (v : Word) : (s.putWord a v).csrs = s.csrs := rfl
@[simp] theorem State.putWord_hw (s : State) (a : Word) (v : Word) : (s.putWord a v).hw = s.hw := rfl
@[simp] theorem State.putWord_cfg (s : State) (a : Word) (v : Word) : (s.putWord a v).cfg = s.cfg := rfl
@[simp] theorem State.putWord_free (s : State) (a : Word) (v : Word) : (s.putWord a v).free = s.free := rfl
@[simp] theorem State.putWord_io (s : State) (a : Word) (v : Word) : (s.putWord a v).io = s.io := rfl

/-! `State.setCsr` -/

@[simp] theorem State.setCsr_regs (s : State) (a : CsrAddr) (v : Word) : (s.setCsr a v).regs = s.regs := rfl
@[simp] theorem State.setCsr_pc (s : State) (a : CsrAddr) (v : Word) : (s.setCsr a v).pc = s.pc := rfl
@[simp] theorem State.setCsr_mem (s : State) (a : CsrAddr) (v : Word) : (s.setCsr a v).mem = s.mem := rfl
@[simp] theorem State.setCsr_hw (s : State) (a : CsrAddr) (v : Word) : (s.setCsr a v).hw = s.hw := rfl
@[simp] theorem State.setCsr_cfg (s : State) (a : CsrAddr) (v : Word) : (s.setCsr a v).cfg = s.cfg := rfl
@[simp] theorem State.setCsr_free (s : State) (a : CsrAddr) (v : Word) : (s.setCsr a v).free = s.free := rfl
@[simp] theorem State.setCsr_io (s : State) (a : CsrAddr) (v : Word) : (s.setCsr a v).io = s.io := rfl

/-! `State.noteRead` -/

@[simp] theorem State.noteRead_regs (s : State) (a : Word) (w : Width) : (s.noteRead a w).regs = s.regs := rfl
@[simp] theorem State.noteRead_pc (s : State) (a : Word) (w : Width) : (s.noteRead a w).pc = s.pc := rfl
@[simp] theorem State.noteRead_csrs (s : State) (a : Word) (w : Width) : (s.noteRead a w).csrs = s.csrs := rfl
@[simp] theorem State.noteRead_mem (s : State) (a : Word) (w : Width) : (s.noteRead a w).mem = s.mem := rfl
@[simp] theorem State.noteRead_hw (s : State) (a : Word) (w : Width) : (s.noteRead a w).hw = s.hw := rfl
@[simp] theorem State.noteRead_cfg (s : State) (a : Word) (w : Width) : (s.noteRead a w).cfg = s.cfg := rfl

/-! `State.noteWrite` -/

@[simp] theorem State.noteWrite_regs (s : State) (a : Word) (w : Width) (v : Word) :
    (s.noteWrite a w v).regs = s.regs := rfl
@[simp] theorem State.noteWrite_pc (s : State) (a : Word) (w : Width) (v : Word) : (s.noteWrite a w v).pc = s.pc := rfl
@[simp] theorem State.noteWrite_csrs (s : State) (a : Word) (w : Width) (v : Word) :
    (s.noteWrite a w v).csrs = s.csrs := rfl
@[simp] theorem State.noteWrite_mem (s : State) (a : Word) (w : Width) (v : Word) :
    (s.noteWrite a w v).mem = s.mem := rfl
@[simp] theorem State.noteWrite_hw (s : State) (a : Word) (w : Width) (v : Word) : (s.noteWrite a w v).hw = s.hw := rfl
@[simp] theorem State.noteWrite_cfg (s : State) (a : Word) (w : Width) (v : Word) :
    (s.noteWrite a w v).cfg = s.cfg := rfl
@[simp] theorem State.noteWrite_free (s : State) (a : Word) (w : Width) (v : Word) :
    (s.noteWrite a w v).free = s.free := rfl

/-! `State.csrEffect` -/

@[simp] theorem State.csrEffect_regs (s : State) (f : Config.CsrEffect) : (s.csrEffect f).regs = s.regs := by
  unfold State.csrEffect; split <;> rfl
@[simp] theorem State.csrEffect_pc (s : State) (f : Config.CsrEffect) : (s.csrEffect f).pc = s.pc := by
  unfold State.csrEffect; split <;> rfl
@[simp] theorem State.csrEffect_mem (s : State) (f : Config.CsrEffect) : (s.csrEffect f).mem = s.mem := by
  unfold State.csrEffect; split <;> rfl
@[simp] theorem State.csrEffect_hw (s : State) (f : Config.CsrEffect) : (s.csrEffect f).hw = s.hw := by
  unfold State.csrEffect; split <;> rfl
@[simp] theorem State.csrEffect_cfg (s : State) (f : Config.CsrEffect) : (s.csrEffect f).cfg = s.cfg := by
  unfold State.csrEffect; split <;> rfl
@[simp] theorem State.csrEffect_io (s : State) (f : Config.CsrEffect) : (s.csrEffect f).io = s.io := by
  unfold State.csrEffect; split <;> rfl

/-! `State.csrEffects` -/

@[simp] theorem State.csrEffects_regs (s : State) (t : Config.CsrTrigger) (l : List Config.CsrEffect) :
    (s.csrEffects t l).regs = s.regs := by
  induction l generalizing s with
  | nil => rfl
  | cons g rest ih => unfold State.csrEffects; rw [ih]; split <;> simp
@[simp] theorem State.csrEffects_pc (s : State) (t : Config.CsrTrigger) (l : List Config.CsrEffect) :
    (s.csrEffects t l).pc = s.pc := by
  induction l generalizing s with
  | nil => rfl
  | cons g rest ih => unfold State.csrEffects; rw [ih]; split <;> simp
@[simp] theorem State.csrEffects_mem (s : State) (t : Config.CsrTrigger) (l : List Config.CsrEffect) :
    (s.csrEffects t l).mem = s.mem := by
  induction l generalizing s with
  | nil => rfl
  | cons g rest ih => unfold State.csrEffects; rw [ih]; split <;> simp
@[simp] theorem State.csrEffects_hw (s : State) (t : Config.CsrTrigger) (l : List Config.CsrEffect) :
    (s.csrEffects t l).hw = s.hw := by
  induction l generalizing s with
  | nil => rfl
  | cons g rest ih => unfold State.csrEffects; rw [ih]; split <;> simp
@[simp] theorem State.csrEffects_cfg (s : State) (t : Config.CsrTrigger) (l : List Config.CsrEffect) :
    (s.csrEffects t l).cfg = s.cfg := by
  induction l generalizing s with
  | nil => rfl
  | cons g rest ih => unfold State.csrEffects; rw [ih]; split <;> simp
@[simp] theorem State.csrEffects_io (s : State) (t : Config.CsrTrigger) (l : List Config.CsrEffect) :
    (s.csrEffects t l).io = s.io := by
  induction l generalizing s with
  | nil => rfl
  | cons g rest ih => unfold State.csrEffects; rw [ih]; split <;> simp

/-! The fields that an update does change. -/

@[simp] theorem State.setPc_pc (s : State) (t : Word) : (s.setPc t).pc = t := rfl
@[simp] theorem State.advance_pc (s : State) : s.advance.pc = s.pc + 4#32 := rfl
@[simp] theorem State.latchFetch_hw (s : State) (w : Word) :
    (s.latchFetch w).hw = { s.hw with ir := w, mar := s.pc } := rfl
@[simp] theorem State.latchAddr_hw (s : State) (a : Word) : (s.latchAddr a).hw = { s.hw with mar := a } := rfl
@[simp] theorem State.putByte_mem (s : State) (a : Word) (b : Byte) :
    (s.putByte a b).mem = s.mem.write a.toNat b := rfl
@[simp] theorem State.setCsr_csrs (s : State) (a : CsrAddr) (v : Word) :
    (s.setCsr a v).csrs = csrModify a (fun e => e.written v) s.csrs := rfl

/-! What an update does to the registers as a program reads them. -/

@[simp] theorem State.x_zero (s : State) : s.x 0#5 = 0#32 := rfl

/-- A register reads the same in two states whose register files are the same. -/
theorem State.x_congr {s t : State} (h : t.regs = s.regs) (r : Reg) : t.x r = s.x r := by
  simp [State.x, h]

/-- R11, R21: reading a register after `x[i] <- v`. -/
theorem State.setX_x (s : State) (i : Reg) (v : Word) (r : Reg) :
    (s.setX i v).x r = if r = 0#5 then 0#32 else if r = i then v else s.x r := by
  unfold State.setX State.x
  by_cases hr : r = 0#5
  · simp [hr]
  · by_cases hi : i = 0#5
    · have h : r ≠ i := fun e => hr (e.trans hi)
      simp [hr, hi]
    · by_cases h : r = i
      · subst h
        simp [hr]
      · have hn : i.toNat ≠ r.toNat := fun e => h (BitVec.eq_of_toNat_eq e.symm)
        simp [hr, hi, h, hn]

@[simp] theorem State.setPc_x (s : State) (t : Word) (r : Reg) : (s.setPc t).x r = s.x r :=
  State.x_congr (by simp) r
@[simp] theorem State.advance_x (s : State) (r : Reg) : (s.advance).x r = s.x r :=
  State.x_congr (by simp) r
@[simp] theorem State.latchFetch_x (s : State) (w : Word) (r : Reg) : (s.latchFetch w).x r = s.x r :=
  State.x_congr (by simp) r
@[simp] theorem State.latchAddr_x (s : State) (a : Word) (r : Reg) : (s.latchAddr a).x r = s.x r :=
  State.x_congr (by simp) r
@[simp] theorem State.latchShift_x (s : State) (k : ShiftKind) (v : Word) (r : Reg) : (s.latchShift k v).x r = s.x r :=
  State.x_congr (by simp) r
@[simp] theorem State.putByte_x (s : State) (a : Word) (b : Byte) (r : Reg) : (s.putByte a b).x r = s.x r :=
  State.x_congr (by simp) r
@[simp] theorem State.putHalf_x (s : State) (a : Word) (v : Half) (r : Reg) : (s.putHalf a v).x r = s.x r :=
  State.x_congr (by simp) r
@[simp] theorem State.putWord_x (s : State) (a : Word) (v : Word) (r : Reg) : (s.putWord a v).x r = s.x r :=
  State.x_congr (by simp) r
@[simp] theorem State.setCsr_x (s : State) (a : CsrAddr) (v : Word) (r : Reg) : (s.setCsr a v).x r = s.x r :=
  State.x_congr (by simp) r

@[simp] theorem State.noteRead_x (s : State) (a : Word) (w : Width) (r : Reg) : (s.noteRead a w).x r = s.x r :=
  State.x_congr (by simp) r
@[simp] theorem State.noteWrite_x (s : State) (a : Word) (w : Width) (v : Word) (r : Reg) :
    (s.noteWrite a w v).x r = s.x r :=
  State.x_congr (by simp) r
@[simp] theorem State.csrEffects_x (s : State) (t : Config.CsrTrigger) (l : List Config.CsrEffect) (r : Reg) :
    (s.csrEffects t l).x r = s.x r :=
  State.x_congr (by simp) r

/-! Plain memory: an access to it leaves no note (R58). -/

/-- Reading plain memory has no side effect. -/
theorem State.readEffects_plain {s : State} {a : Word} {w : Width} (h : s.plainMemory a w = true) :
    s.readEffects a w = false := by
  simp only [State.plainMemory, List.all_eq_true, beq_iff_eq] at h
  simp only [State.readEffects, List.any_eq_false, beq_iff_eq]
  intro b hb
  simp [h b hb]

theorem State.noteRead_plain {s : State} {a : Word} {w : Width} (h : s.plainMemory a w = true) :
    s.noteRead a w = s := by
  simp [State.noteRead, h, State.readEffects_plain h]

theorem State.noteWrite_plain {s : State} {a : Word} {w : Width} (h : s.plainMemory a w = true) (v : Word) :
    s.noteWrite a w v = s := by
  simp [State.noteWrite, h]

/-! `State.writeBack` -/

@[simp] theorem State.writeBack_pc (s : State) (rd : Reg) (v : Word) : (s.writeBack rd v).pc = s.pc + 4#32 := by
  simp [State.writeBack]
@[simp] theorem State.writeBack_mem (s : State) (rd : Reg) (v : Word) : (s.writeBack rd v).mem = s.mem := by
  simp [State.writeBack]
@[simp] theorem State.writeBack_csrs (s : State) (rd : Reg) (v : Word) : (s.writeBack rd v).csrs = s.csrs := by
  simp [State.writeBack]
@[simp] theorem State.writeBack_hw (s : State) (rd : Reg) (v : Word) : (s.writeBack rd v).hw = s.hw := by
  simp [State.writeBack]
@[simp] theorem State.writeBack_cfg (s : State) (rd : Reg) (v : Word) : (s.writeBack rd v).cfg = s.cfg := by
  simp [State.writeBack]
@[simp] theorem State.writeBack_free (s : State) (rd : Reg) (v : Word) : (s.writeBack rd v).free = s.free := by
  simp [State.writeBack]
@[simp] theorem State.writeBack_io (s : State) (rd : Reg) (v : Word) : (s.writeBack rd v).io = s.io := by
  simp [State.writeBack]

/-- Reading a register after an instruction whose one result is `x[rd] <- v`. -/
theorem State.writeBack_x (s : State) (rd : Reg) (v : Word) (r : Reg) :
    (s.writeBack rd v).x r = if r = 0#5 then 0#32 else if r = rd then v else s.x r := by
  simp [State.writeBack, State.setX_x]

end Sys2Proof.Machine
end

