-- ==== Sys2Proof/Laws/Control.lean ====
section
/-! SUPPORT. What the shared operations on the pc, the shifts and the CSRs can do, each said once. -/

namespace Sys2Proof.Machine

/-- An address passes the pc's check exactly when it is a multiple of 4. -/
theorem alignedTarget_iff (t : Word) : alignedTarget t = true ↔ t.toNat % 4 = 0 := by
  simp only [alignedTarget, beq_iff_eq, ← BitVec.toNat_inj, BitVec.extractLsb'_toNat]
  simp

/-- A jump that gives a next state has an aligned target, links, and goes there. -/
theorem State.jumpAndLink_next {s t : State} {rd : Reg} {target : Word} (h : s.jumpAndLink rd target = .next t) :
    alignedTarget target = true ∧ t = (s.setX rd (s.pc + 4#32)).setPc target := by
  unfold State.jumpAndLink at h
  split at h
  · rename_i ha
    exact ⟨ha, by simpa using h.symm⟩
  · simp [State.raise] at h

/-- A branch that gives a next state went to its target or advanced. -/
theorem State.branch_next {s t : State} {taken : Bool} {offset : BitVec 13} (h : s.branch taken offset = .next t) :
    (taken = true ∧ alignedTarget (s.pc + offsetB offset) = true ∧ t = s.setPc (s.pc + offsetB offset)) ∨
    (taken = false ∧ t = s.advance) := by
  unfold State.branch at h
  cases taken with
  | false => exact .inr ⟨rfl, by simpa using h.symm⟩
  | true =>
    simp only [if_true] at h
    split at h
    · rename_i ha
      exact .inl ⟨rfl, ha, by simpa using h.symm⟩
    · simp [State.raise] at h

/-- A CSR access that gives a next state read a CSR, wrote it, had the side effects of its row, and wrote `rd`. -/
theorem State.csrAccess_next {s t : State} {rd : Reg} {a : CsrAddr} {src : Word} {new : Word → Word → Word}
    (h : s.csrAccess rd a src new = .next t) :
    ∃ e, csrFind s.csrs a = some e ∧
      t = (((s.csrEffects .read e.decl.effects).setCsr a (new e.value src)).csrEffects .write
        e.decl.effects).writeBack rd e.value := by
  unfold State.csrAccess at h
  split at h
  · simp [State.raise] at h
  · rename_i e he
    exact ⟨e, he, by simpa using h.symm⟩

/-- The CSR found at an address is declared there. -/
theorem csrFind_addr {l : List CsrEntry} {a : CsrAddr} {e : CsrEntry} (h : csrFind l a = some e) :
    e.decl.addr = a := by
  induction l with
  | nil => simp [csrFind] at h
  | cons c rest ih =>
    unfold csrFind at h
    split at h
    · rename_i hc
      simp at h
      rw [← h]
      exact hc
    · exact ih h

/-- Changing the value of a CSR changes no declaration: CSR_MAP is as before. -/
theorem csrModify_decl (a : CsrAddr) (f : CsrEntry → Word) (l : List CsrEntry) :
    (csrModify a f l).map CsrEntry.decl = l.map CsrEntry.decl := by
  induction l with
  | nil => rfl
  | cons c rest ih =>
    unfold csrModify
    split
    · simp
    · simp [ih]

/-- Finding a CSR after the value of one is changed. -/
theorem csrFind_modify (a b : CsrAddr) (f : CsrEntry → Word) (l : List CsrEntry) :
    csrFind (csrModify a f l) b =
      (csrFind l b).map fun e => if b = a then { e with value := f e } else e := by
  induction l with
  | nil => rfl
  | cons c rest ih =>
    unfold csrModify
    by_cases hca : c.decl.addr = a
    · by_cases hcb : c.decl.addr = b
      · simp [csrFind, ← hca, ← hcb]
      · have hab : b ≠ a := fun e => hcb (hca.trans e.symm)
        simp [csrFind, hca, hab, Ne.symm hab]
    · by_cases hcb : c.decl.addr = b
      · have hab : b ≠ a := fun e => hca (hcb.trans e)
        simp [csrFind, hcb, hab]
      · simp [csrFind, hca, hcb, ih]

/-- A side effect changes no declaration. -/
theorem State.csrEffect_decl (s : State) (f : Config.CsrEffect) :
    (s.csrEffect f).csrs.map CsrEntry.decl = s.csrs.map CsrEntry.decl := by
  unfold State.csrEffect
  split <;> exact csrModify_decl _ _ _

/-- The side effects of an access change no declaration. -/
theorem State.csrEffects_decl (s : State) (t : Config.CsrTrigger) (l : List Config.CsrEffect) :
    (s.csrEffects t l).csrs.map CsrEntry.decl = s.csrs.map CsrEntry.decl := by
  induction l generalizing s with
  | nil => rfl
  | cons f rest ih =>
    unfold State.csrEffects
    rw [ih]
    split
    · exact State.csrEffect_decl s f
    · rfl

/-- A side effect on another CSR leaves a CSR as it was. -/
theorem State.csrEffect_find {s : State} {f : Config.CsrEffect} {b : CsrAddr} (h : f.target ≠ b) :
    csrFind (s.csrEffect f).csrs b = csrFind s.csrs b := by
  unfold State.csrEffect
  split <;> simp [csrFind_modify, Ne.symm h]

/-- Side effects on other CSRs leave a CSR as it was. -/
theorem State.csrEffects_find {s : State} {t : Config.CsrTrigger} {l : List Config.CsrEffect} {b : CsrAddr}
    (h : ∀ f ∈ l, f.target ≠ b) : csrFind (s.csrEffects t l).csrs b = csrFind s.csrs b := by
  induction l generalizing s with
  | nil => rfl
  | cons f rest ih =>
    unfold State.csrEffects
    rw [ih fun g hg => h g (List.mem_cons_of_mem _ hg)]
    split
    · exact State.csrEffect_find (h f List.mem_cons_self)
    · rfl

/-- Side effects whose results are all stated use no free value. -/
theorem State.csrEffects_free {s : State} {t : Config.CsrTrigger} {l : List Config.CsrEffect}
    (h : ∀ f ∈ l, f.change ≠ .unstated) : (s.csrEffects t l).free = s.free := by
  induction l generalizing s with
  | nil => rfl
  | cons f rest ih =>
    unfold State.csrEffects
    rw [ih fun g hg => h g (List.mem_cons_of_mem _ hg)]
    split
    · have hf := h f List.mem_cons_self
      unfold State.csrEffect
      split
      · rfl
      · contradiction
    · rfl

/-- The side effects neither read nor change the registers that no instruction names. -/
theorem State.csrEffects_datapath (s : State) (h : Datapath) (t : Config.CsrTrigger) (l : List Config.CsrEffect) :
    ({ s with hw := h } : State).csrEffects t l = { s.csrEffects t l with hw := h } := by
  induction l generalizing s with
  | nil => rfl
  | cons f rest ih =>
    unfold State.csrEffects
    rw [← ih]
    congr 1
    split
    · unfold State.csrEffect
      split <;> rfl
    · rfl

/-- A row without side effects leaves the state as it was. -/
@[simp] theorem State.csrEffects_nil (s : State) (t : Config.CsrTrigger) : s.csrEffects t [] = s := rfl

/-- Writing all bits of a CSR leaves the written value. -/
theorem CsrEntry.written_plain {e : CsrEntry} (h : e.decl.writable = BitVec.allOnes 32) (v : Word) :
    e.written v = v := by
  rw [CsrEntry.written, h, BitVec.and_allOnes, BitVec.not_allOnes, BitVec.and_zero, BitVec.zero_or]

/-- A shift changes the registers no instruction names only in the Counter and one shift register. -/
theorem State.latchShift_ir (s : State) (k : ShiftKind) (v : Word) : (s.latchShift k v).hw.ir = s.hw.ir := by
  cases k <;> rfl

end Sys2Proof.Machine
end

