-- ==== Sys2Proof/Laws/Encoding.lean ====
section
/-! SUPPORT. What each field of a word laid out by a format of spec/30_encoding.md section 3 reads as. -/

namespace Sys2Proof

/-- A field above the low part of a concatenation is a field of the high part. -/
theorem bits_of_high {m n : Nat} (hi : BitVec m) (lo : BitVec n) {i len : Nat} (h : n ≤ i) :
    (hi ++ lo).extractLsb' i len = hi.extractLsb' (i - n) len := BitVec.extractLsb'_append_eq_of_le h

/-- A field inside the low part of a concatenation is a field of the low part. -/
theorem bits_of_low {m n : Nat} (hi : BitVec m) (lo : BitVec n) {i len : Nat} (h : i + len ≤ n) :
    (hi ++ lo).extractLsb' i len = lo.extractLsb' i len := BitVec.extractLsb'_append_eq_of_add_le h

/-! `encR` -/

theorem encR_fOpcode (f7 : BitVec 7) (rs2 rs1 : Reg) (f3 : BitVec 3) (rd : Reg) (op : BitVec 7) :
    fOpcode (encR f7 rs2 rs1 f3 rd op) = op := by
  unfold fOpcode bits encR
  rw [bits_of_low _ _ (by decide)]
  exact BitVec.extractLsb'_eq_self

theorem encR_fRd (f7 : BitVec 7) (rs2 rs1 : Reg) (f3 : BitVec 3) (rd : Reg) (op : BitVec 7) :
    fRd (encR f7 rs2 rs1 f3 rd op) = rd := by
  unfold fRd bits encR
  rw [bits_of_high _ _ (by decide), bits_of_low _ _ (by decide)]
  exact BitVec.extractLsb'_eq_self

theorem encR_fFunct3 (f7 : BitVec 7) (rs2 rs1 : Reg) (f3 : BitVec 3) (rd : Reg) (op : BitVec 7) :
    fFunct3 (encR f7 rs2 rs1 f3 rd op) = f3 := by
  unfold fFunct3 bits encR
  rw [bits_of_high _ _ (by decide), bits_of_high _ _ (by decide), bits_of_low _ _ (by decide)]
  exact BitVec.extractLsb'_eq_self

theorem encR_fRs1 (f7 : BitVec 7) (rs2 rs1 : Reg) (f3 : BitVec 3) (rd : Reg) (op : BitVec 7) :
    fRs1 (encR f7 rs2 rs1 f3 rd op) = rs1 := by
  unfold fRs1 bits encR
  rw [bits_of_high _ _ (by decide), bits_of_high _ _ (by decide), bits_of_high _ _ (by decide),
    bits_of_low _ _ (by decide)]
  exact BitVec.extractLsb'_eq_self

theorem encR_fRs2 (f7 : BitVec 7) (rs2 rs1 : Reg) (f3 : BitVec 3) (rd : Reg) (op : BitVec 7) :
    fRs2 (encR f7 rs2 rs1 f3 rd op) = rs2 := by
  unfold fRs2 bits encR
  rw [bits_of_high _ _ (by decide), bits_of_high _ _ (by decide), bits_of_high _ _ (by decide),
    bits_of_high _ _ (by decide), bits_of_low _ _ (by decide)]
  exact BitVec.extractLsb'_eq_self

theorem encR_fFunct7 (f7 : BitVec 7) (rs2 rs1 : Reg) (f3 : BitVec 3) (rd : Reg) (op : BitVec 7) :
    fFunct7 (encR f7 rs2 rs1 f3 rd op) = f7 := by
  unfold fFunct7 bits encR
  rw [bits_of_high _ _ (by decide), bits_of_high _ _ (by decide), bits_of_high _ _ (by decide),
    bits_of_high _ _ (by decide), bits_of_high _ _ (by decide)]
  exact BitVec.extractLsb'_eq_self

theorem encR_quadrant (f7 : BitVec 7) (rs2 rs1 : Reg) (f3 : BitVec 3) (rd : Reg) (op : BitVec 7) :
    bits (encR f7 rs2 rs1 f3 rd op) 0 2 = op.extractLsb' 0 2 := by
  unfold bits encR
  rw [bits_of_low _ _ (by decide)]

/-! `encI` -/

theorem encI_fOpcode (imm : BitVec 12) (rs1 : Reg) (f3 : BitVec 3) (rd : Reg) (op : BitVec 7) :
    fOpcode (encI imm rs1 f3 rd op) = op := by
  unfold fOpcode bits encI
  rw [bits_of_low _ _ (by decide)]
  exact BitVec.extractLsb'_eq_self

theorem encI_fRd (imm : BitVec 12) (rs1 : Reg) (f3 : BitVec 3) (rd : Reg) (op : BitVec 7) :
    fRd (encI imm rs1 f3 rd op) = rd := by
  unfold fRd bits encI
  rw [bits_of_high _ _ (by decide), bits_of_low _ _ (by decide)]
  exact BitVec.extractLsb'_eq_self

theorem encI_fFunct3 (imm : BitVec 12) (rs1 : Reg) (f3 : BitVec 3) (rd : Reg) (op : BitVec 7) :
    fFunct3 (encI imm rs1 f3 rd op) = f3 := by
  unfold fFunct3 bits encI
  rw [bits_of_high _ _ (by decide), bits_of_high _ _ (by decide), bits_of_low _ _ (by decide)]
  exact BitVec.extractLsb'_eq_self

theorem encI_fRs1 (imm : BitVec 12) (rs1 : Reg) (f3 : BitVec 3) (rd : Reg) (op : BitVec 7) :
    fRs1 (encI imm rs1 f3 rd op) = rs1 := by
  unfold fRs1 bits encI
  rw [bits_of_high _ _ (by decide), bits_of_high _ _ (by decide), bits_of_high _ _ (by decide),
    bits_of_low _ _ (by decide)]
  exact BitVec.extractLsb'_eq_self

theorem encI_fImm12 (imm : BitVec 12) (rs1 : Reg) (f3 : BitVec 3) (rd : Reg) (op : BitVec 7) :
    fImm12 (encI imm rs1 f3 rd op) = imm := by
  unfold fImm12 bits encI
  rw [bits_of_high _ _ (by decide), bits_of_high _ _ (by decide), bits_of_high _ _ (by decide),
    bits_of_high _ _ (by decide)]
  exact BitVec.extractLsb'_eq_self

theorem encI_quadrant (imm : BitVec 12) (rs1 : Reg) (f3 : BitVec 3) (rd : Reg) (op : BitVec 7) :
    bits (encI imm rs1 f3 rd op) 0 2 = op.extractLsb' 0 2 := by
  unfold bits encI
  rw [bits_of_low _ _ (by decide)]

/-! `encShift` -/

theorem encShift_fOpcode (u : BitVec 6) (shamt : BitVec 6) (rs1 : Reg) (f3 : BitVec 3) (rd : Reg) :
    fOpcode (encShift u shamt rs1 f3 rd) = 0b0010011#7 := by
  unfold fOpcode bits encShift
  rw [bits_of_low _ _ (by decide)]
  exact BitVec.extractLsb'_eq_self

theorem encShift_fRd (u : BitVec 6) (shamt : BitVec 6) (rs1 : Reg) (f3 : BitVec 3) (rd : Reg) :
    fRd (encShift u shamt rs1 f3 rd) = rd := by
  unfold fRd bits encShift
  rw [bits_of_high _ _ (by decide), bits_of_low _ _ (by decide)]
  exact BitVec.extractLsb'_eq_self

theorem encShift_fFunct3 (u : BitVec 6) (shamt : BitVec 6) (rs1 : Reg) (f3 : BitVec 3) (rd : Reg) :
    fFunct3 (encShift u shamt rs1 f3 rd) = f3 := by
  unfold fFunct3 bits encShift
  rw [bits_of_high _ _ (by decide), bits_of_high _ _ (by decide), bits_of_low _ _ (by decide)]
  exact BitVec.extractLsb'_eq_self

theorem encShift_fRs1 (u : BitVec 6) (shamt : BitVec 6) (rs1 : Reg) (f3 : BitVec 3) (rd : Reg) :
    fRs1 (encShift u shamt rs1 f3 rd) = rs1 := by
  unfold fRs1 bits encShift
  rw [bits_of_high _ _ (by decide), bits_of_high _ _ (by decide), bits_of_high _ _ (by decide),
    bits_of_low _ _ (by decide)]
  exact BitVec.extractLsb'_eq_self

theorem encShift_fShamt (u : BitVec 6) (shamt : BitVec 6) (rs1 : Reg) (f3 : BitVec 3) (rd : Reg) :
    fShamt (encShift u shamt rs1 f3 rd) = shamt := by
  unfold fShamt bits encShift
  rw [bits_of_high _ _ (by decide), bits_of_high _ _ (by decide), bits_of_high _ _ (by decide),
    bits_of_high _ _ (by decide), bits_of_low _ _ (by decide)]
  exact BitVec.extractLsb'_eq_self

theorem encShift_quadrant (u : BitVec 6) (shamt : BitVec 6) (rs1 : Reg) (f3 : BitVec 3) (rd : Reg) :
    bits (encShift u shamt rs1 f3 rd) 0 2 = (0b0010011#7).extractLsb' 0 2 := by
  unfold bits encShift
  rw [bits_of_low _ _ (by decide)]

/-! `encU` -/

theorem encU_fOpcode (imm : BitVec 20) (rd : Reg) (op : BitVec 7) :
    fOpcode (encU imm rd op) = op := by
  unfold fOpcode bits encU
  rw [bits_of_low _ _ (by decide)]
  exact BitVec.extractLsb'_eq_self

theorem encU_fRd (imm : BitVec 20) (rd : Reg) (op : BitVec 7) :
    fRd (encU imm rd op) = rd := by
  unfold fRd bits encU
  rw [bits_of_high _ _ (by decide), bits_of_low _ _ (by decide)]
  exact BitVec.extractLsb'_eq_self

theorem encU_fImm20 (imm : BitVec 20) (rd : Reg) (op : BitVec 7) :
    fImm20 (encU imm rd op) = imm := by
  unfold fImm20 bits encU
  rw [bits_of_high _ _ (by decide), bits_of_high _ _ (by decide)]
  exact BitVec.extractLsb'_eq_self

theorem encU_quadrant (imm : BitVec 20) (rd : Reg) (op : BitVec 7) :
    bits (encU imm rd op) 0 2 = op.extractLsb' 0 2 := by
  unfold bits encU
  rw [bits_of_low _ _ (by decide)]

/-! `encB` -/

theorem encB_fOpcode (offset : BitVec 13) (rs2 rs1 : Reg) (f3 : BitVec 3) :
    fOpcode (encB offset rs2 rs1 f3) = 0b1100011#7 := by
  unfold fOpcode bits encB
  rw [bits_of_low _ _ (by decide)]
  exact BitVec.extractLsb'_eq_self

theorem encB_fFunct3 (offset : BitVec 13) (rs2 rs1 : Reg) (f3 : BitVec 3) :
    fFunct3 (encB offset rs2 rs1 f3) = f3 := by
  unfold fFunct3 bits encB
  rw [bits_of_high _ _ (by decide), bits_of_high _ _ (by decide), bits_of_high _ _ (by decide),
    bits_of_low _ _ (by decide)]
  exact BitVec.extractLsb'_eq_self

theorem encB_fRs1 (offset : BitVec 13) (rs2 rs1 : Reg) (f3 : BitVec 3) :
    fRs1 (encB offset rs2 rs1 f3) = rs1 := by
  unfold fRs1 bits encB
  rw [bits_of_high _ _ (by decide), bits_of_high _ _ (by decide), bits_of_high _ _ (by decide),
    bits_of_high _ _ (by decide), bits_of_low _ _ (by decide)]
  exact BitVec.extractLsb'_eq_self

theorem encB_fRs2 (offset : BitVec 13) (rs2 rs1 : Reg) (f3 : BitVec 3) :
    fRs2 (encB offset rs2 rs1 f3) = rs2 := by
  unfold fRs2 bits encB
  rw [bits_of_high _ _ (by decide), bits_of_high _ _ (by decide), bits_of_high _ _ (by decide),
    bits_of_high _ _ (by decide), bits_of_high _ _ (by decide), bits_of_low _ _ (by decide)]
  exact BitVec.extractLsb'_eq_self

theorem encB_quadrant (offset : BitVec 13) (rs2 rs1 : Reg) (f3 : BitVec 3) :
    bits (encB offset rs2 rs1 f3) 0 2 = (0b1100011#7).extractLsb' 0 2 := by
  unfold bits encB
  rw [bits_of_low _ _ (by decide)]

theorem encB_bit31 (offset : BitVec 13) (rs2 rs1 : Reg) (f3 : BitVec 3) :
    bits (encB offset rs2 rs1 f3) 31 1 = offset.extractLsb' 12 1 := by
  unfold bits encB
  rw [bits_of_high _ _ (by decide), bits_of_high _ _ (by decide), bits_of_high _ _ (by decide),
    bits_of_high _ _ (by decide), bits_of_high _ _ (by decide), bits_of_high _ _ (by decide),
    bits_of_high _ _ (by decide)]
  exact BitVec.extractLsb'_eq_self

theorem encB_bit7 (offset : BitVec 13) (rs2 rs1 : Reg) (f3 : BitVec 3) :
    bits (encB offset rs2 rs1 f3) 7 1 = offset.extractLsb' 11 1 := by
  unfold bits encB
  rw [bits_of_high _ _ (by decide), bits_of_low _ _ (by decide)]
  exact BitVec.extractLsb'_eq_self

theorem encB_bits30to25 (offset : BitVec 13) (rs2 rs1 : Reg) (f3 : BitVec 3) :
    bits (encB offset rs2 rs1 f3) 25 6 = offset.extractLsb' 5 6 := by
  unfold bits encB
  rw [bits_of_high _ _ (by decide), bits_of_high _ _ (by decide), bits_of_high _ _ (by decide),
    bits_of_high _ _ (by decide), bits_of_high _ _ (by decide), bits_of_high _ _ (by decide),
    bits_of_low _ _ (by decide)]
  exact BitVec.extractLsb'_eq_self

theorem encB_bits11to8 (offset : BitVec 13) (rs2 rs1 : Reg) (f3 : BitVec 3) :
    bits (encB offset rs2 rs1 f3) 8 4 = offset.extractLsb' 1 4 := by
  unfold bits encB
  rw [bits_of_high _ _ (by decide), bits_of_high _ _ (by decide), bits_of_low _ _ (by decide)]
  exact BitVec.extractLsb'_eq_self

/-! `encJ` -/

theorem encJ_fOpcode (offset : BitVec 21) (rd : Reg) :
    fOpcode (encJ offset rd) = 0b1101111#7 := by
  unfold fOpcode bits encJ
  rw [bits_of_low _ _ (by decide)]
  exact BitVec.extractLsb'_eq_self

theorem encJ_fRd (offset : BitVec 21) (rd : Reg) :
    fRd (encJ offset rd) = rd := by
  unfold fRd bits encJ
  rw [bits_of_high _ _ (by decide), bits_of_low _ _ (by decide)]
  exact BitVec.extractLsb'_eq_self

theorem encJ_quadrant (offset : BitVec 21) (rd : Reg) :
    bits (encJ offset rd) 0 2 = (0b1101111#7).extractLsb' 0 2 := by
  unfold bits encJ
  rw [bits_of_low _ _ (by decide)]

theorem encJ_bit31 (offset : BitVec 21) (rd : Reg) :
    bits (encJ offset rd) 31 1 = offset.extractLsb' 20 1 := by
  unfold bits encJ
  rw [bits_of_high _ _ (by decide), bits_of_high _ _ (by decide), bits_of_high _ _ (by decide),
    bits_of_high _ _ (by decide), bits_of_high _ _ (by decide)]
  exact BitVec.extractLsb'_eq_self

theorem encJ_bits19to12 (offset : BitVec 21) (rd : Reg) :
    bits (encJ offset rd) 12 8 = offset.extractLsb' 12 8 := by
  unfold bits encJ
  rw [bits_of_high _ _ (by decide), bits_of_high _ _ (by decide), bits_of_low _ _ (by decide)]
  exact BitVec.extractLsb'_eq_self

theorem encJ_bit20 (offset : BitVec 21) (rd : Reg) :
    bits (encJ offset rd) 20 1 = offset.extractLsb' 11 1 := by
  unfold bits encJ
  rw [bits_of_high _ _ (by decide), bits_of_high _ _ (by decide), bits_of_high _ _ (by decide),
    bits_of_low _ _ (by decide)]
  exact BitVec.extractLsb'_eq_self

theorem encJ_bits30to21 (offset : BitVec 21) (rd : Reg) :
    bits (encJ offset rd) 21 10 = offset.extractLsb' 1 10 := by
  unfold bits encJ
  rw [bits_of_high _ _ (by decide), bits_of_high _ _ (by decide), bits_of_high _ _ (by decide),
    bits_of_high _ _ (by decide), bits_of_low _ _ (by decide)]
  exact BitVec.extractLsb'_eq_self

/-! `encStack` -/

theorem encStack_fStackFunct3 (f3 : BitVec 3) (uimm : BitVec 6) (reg : BitVec 5) :
    fStackFunct3 (encStack f3 uimm reg) = f3 := by
  unfold fStackFunct3 bits encStack
  rw [bits_of_high _ _ (by decide), bits_of_high _ _ (by decide), bits_of_high _ _ (by decide),
    bits_of_low _ _ (by decide)]
  exact BitVec.extractLsb'_eq_self

theorem encStack_fUimm (f3 : BitVec 3) (uimm : BitVec 6) (reg : BitVec 5) :
    fUimm (encStack f3 uimm reg) = uimm := by
  unfold fUimm bits encStack
  rw [bits_of_high _ _ (by decide), bits_of_high _ _ (by decide), bits_of_low _ _ (by decide)]
  exact BitVec.extractLsb'_eq_self

theorem encStack_fReg (f3 : BitVec 3) (uimm : BitVec 6) (reg : BitVec 5) :
    fReg (encStack f3 uimm reg) = reg := by
  unfold fReg bits encStack
  rw [bits_of_high _ _ (by decide), bits_of_low _ _ (by decide)]
  exact BitVec.extractLsb'_eq_self

theorem encStack_quadrant (f3 : BitVec 3) (uimm : BitVec 6) (reg : BitVec 5) :
    bits (encStack f3 uimm reg) 0 2 = 0b10#2 := by
  unfold bits encStack
  rw [bits_of_low _ _ (by decide)]
  exact BitVec.extractLsb'_eq_self

theorem encStack_upper (f3 : BitVec 3) (uimm : BitVec 6) (reg : BitVec 5) :
    bits (encStack f3 uimm reg) 16 16 = 0#16 := by
  unfold bits encStack
  rw [bits_of_high _ _ (by decide), bits_of_high _ _ (by decide), bits_of_high _ _ (by decide),
    bits_of_high _ _ (by decide)]
  exact BitVec.extractLsb'_eq_self

/-! Fields that straddle two parts of a layout -/

/-- An even 13-bit offset is its bits 12, 11, 10 to 5 and 4 to 1, over a zero. -/
theorem offset13_parts {offset : BitVec 13} (h : evenOffset offset = true) :
    (offset.extractLsb' 12 1 ++ offset.extractLsb' 11 1 ++ offset.extractLsb' 5 6 ++ offset.extractLsb' 1 4 ++ 0#1 :
      BitVec 13) = offset := by
  have h0 : offset.getLsbD 0 = false := by simpa [evenOffset] using h
  apply BitVec.eq_of_getLsbD_eq
  intro i hi
  rw [BitVec.getLsbD_append, BitVec.getLsbD_append, BitVec.getLsbD_append, BitVec.getLsbD_append]
  interval_cases i <;> simp_all

/-- An even 21-bit offset is its bits 20, 19 to 12, 11 and 10 to 1, over a zero. -/
theorem offset21_parts {offset : BitVec 21} (h : evenOffset offset = true) :
    (offset.extractLsb' 20 1 ++ offset.extractLsb' 12 8 ++ offset.extractLsb' 11 1 ++ offset.extractLsb' 1 10 ++ 0#1 :
      BitVec 21) = offset := by
  have h0 : offset.getLsbD 0 = false := by simpa [evenOffset] using h
  apply BitVec.eq_of_getLsbD_eq
  intro i hi
  rw [BitVec.getLsbD_append, BitVec.getLsbD_append, BitVec.getLsbD_append, BitVec.getLsbD_append]
  interval_cases i <;> simp_all

theorem encB_fOffsetB {offset : BitVec 13} (h : evenOffset offset = true) (rs2 rs1 : Reg) (f3 : BitVec 3) :
    fOffsetB (encB offset rs2 rs1 f3) = offset := by
  unfold fOffsetB
  rw [encB_bit31, encB_bit7, encB_bits30to25, encB_bits11to8]
  exact offset13_parts h

theorem encJ_fOffsetJ {offset : BitVec 21} (h : evenOffset offset = true) (rd : Reg) :
    fOffsetJ (encJ offset rd) = offset := by
  unfold fOffsetJ
  rw [encJ_bit31, encJ_bits19to12, encJ_bit20, encJ_bits30to21]
  exact offset21_parts h

/-- A valid shift amount leaves `IR[25]` clear, so funct7 is the layout's upper bits over a zero. -/
theorem encShift_fFunct7 (u : BitVec 6) {shamt : BitVec 6} (h : validShamt shamt = true) (rs1 : Reg) (f3 : BitVec 3)
    (rd : Reg) : fFunct7 (encShift u shamt rs1 f3 rd) = u ++ 0#1 := by
  have h0 : shamt.getLsbD 5 = false := by simpa [validShamt] using h
  unfold fFunct7 bits encShift
  rw [bits_of_high _ _ (by decide), bits_of_high _ _ (by decide), bits_of_high _ _ (by decide),
    bits_of_high _ _ (by decide)]
  apply BitVec.eq_of_getLsbD_eq
  intro i hi
  rw [BitVec.getLsbD_append, BitVec.getLsbD_extractLsb', BitVec.getLsbD_append]
  interval_cases i <;> simp_all

/-! Putting a word back together from its fields -/

theorem encR_fields (w : Word) : encR (fFunct7 w) (fRs2 w) (fRs1 w) (fFunct3 w) (fRd w) (fOpcode w) = w := by
  unfold encR fFunct7 fRs2 fRs1 fFunct3 fRd fOpcode bits
  apply BitVec.eq_of_getLsbD_eq
  intro i hi
  rw [BitVec.getLsbD_append, BitVec.getLsbD_append, BitVec.getLsbD_append, BitVec.getLsbD_append,
    BitVec.getLsbD_append]
  interval_cases i <;> simp

theorem encI_fields (w : Word) : encI (fImm12 w) (fRs1 w) (fFunct3 w) (fRd w) (fOpcode w) = w := by
  unfold encI fImm12 fRs1 fFunct3 fRd fOpcode bits
  apply BitVec.eq_of_getLsbD_eq
  intro i hi
  rw [BitVec.getLsbD_append, BitVec.getLsbD_append, BitVec.getLsbD_append, BitVec.getLsbD_append]
  interval_cases i <;> simp

theorem encU_fields (w : Word) : encU (fImm20 w) (fRd w) (fOpcode w) = w := by
  unfold encU fImm20 fRd fOpcode bits
  apply BitVec.eq_of_getLsbD_eq
  intro i hi
  rw [BitVec.getLsbD_append, BitVec.getLsbD_append]
  interval_cases i <;> simp

theorem encShift_fields {w : Word} (h : fOpcode w = 0b0010011#7) :
    encShift (bits w 26 6) (fShamt w) (fRs1 w) (fFunct3 w) (fRd w) = w := by
  unfold encShift
  rw [← h]
  unfold fShamt fRs1 fFunct3 fRd fOpcode bits
  apply BitVec.eq_of_getLsbD_eq
  intro i hi
  rw [BitVec.getLsbD_append, BitVec.getLsbD_append, BitVec.getLsbD_append, BitVec.getLsbD_append,
    BitVec.getLsbD_append]
  interval_cases i <;> simp

theorem fOffsetB_parts (w : Word) :
    (fOffsetB w).extractLsb' 12 1 = bits w 31 1 ∧ (fOffsetB w).extractLsb' 11 1 = bits w 7 1 ∧
    (fOffsetB w).extractLsb' 5 6 = bits w 25 6 ∧ (fOffsetB w).extractLsb' 1 4 = bits w 8 4 := by
  unfold fOffsetB
  refine ⟨?_, ?_, ?_, ?_⟩
  · rw [bits_of_high _ _ (by decide), bits_of_high _ _ (by decide), bits_of_high _ _ (by decide),
      bits_of_high _ _ (by decide)]
    exact BitVec.extractLsb'_eq_self
  · rw [bits_of_high _ _ (by decide), bits_of_high _ _ (by decide), bits_of_high _ _ (by decide),
      bits_of_low _ _ (by decide)]
    exact BitVec.extractLsb'_eq_self
  · rw [bits_of_high _ _ (by decide), bits_of_high _ _ (by decide), bits_of_low _ _ (by decide)]
    exact BitVec.extractLsb'_eq_self
  · rw [bits_of_high _ _ (by decide), bits_of_low _ _ (by decide)]
    exact BitVec.extractLsb'_eq_self

theorem encB_fields {w : Word} (h : fOpcode w = 0b1100011#7) :
    encB (fOffsetB w) (fRs2 w) (fRs1 w) (fFunct3 w) = w := by
  obtain ⟨h31, h7, h25, h8⟩ := fOffsetB_parts w
  unfold encB
  rw [h31, h7, h25, h8, ← h]
  unfold fRs2 fRs1 fFunct3 fOpcode bits
  apply BitVec.eq_of_getLsbD_eq
  intro i hi
  rw [BitVec.getLsbD_append, BitVec.getLsbD_append, BitVec.getLsbD_append, BitVec.getLsbD_append,
    BitVec.getLsbD_append, BitVec.getLsbD_append, BitVec.getLsbD_append]
  interval_cases i <;> simp

theorem fOffsetJ_parts (w : Word) :
    (fOffsetJ w).extractLsb' 20 1 = bits w 31 1 ∧ (fOffsetJ w).extractLsb' 12 8 = bits w 12 8 ∧
    (fOffsetJ w).extractLsb' 11 1 = bits w 20 1 ∧ (fOffsetJ w).extractLsb' 1 10 = bits w 21 10 := by
  unfold fOffsetJ
  refine ⟨?_, ?_, ?_, ?_⟩
  · rw [bits_of_high _ _ (by decide), bits_of_high _ _ (by decide), bits_of_high _ _ (by decide),
      bits_of_high _ _ (by decide)]
    exact BitVec.extractLsb'_eq_self
  · rw [bits_of_high _ _ (by decide), bits_of_high _ _ (by decide), bits_of_high _ _ (by decide),
      bits_of_low _ _ (by decide)]
    exact BitVec.extractLsb'_eq_self
  · rw [bits_of_high _ _ (by decide), bits_of_high _ _ (by decide), bits_of_low _ _ (by decide)]
    exact BitVec.extractLsb'_eq_self
  · rw [bits_of_high _ _ (by decide), bits_of_low _ _ (by decide)]
    exact BitVec.extractLsb'_eq_self

theorem encJ_fields {w : Word} (h : fOpcode w = 0b1101111#7) : encJ (fOffsetJ w) (fRd w) = w := by
  obtain ⟨h31, h12, h20, h21⟩ := fOffsetJ_parts w
  unfold encJ
  rw [h31, h12, h20, h21, ← h]
  unfold fRd fOpcode bits
  apply BitVec.eq_of_getLsbD_eq
  intro i hi
  rw [BitVec.getLsbD_append, BitVec.getLsbD_append, BitVec.getLsbD_append, BitVec.getLsbD_append,
    BitVec.getLsbD_append]
  interval_cases i <;> simp

theorem encStack_fields {w : Word} (hu : bits w 16 16 = 0#16) (hq : bits w 0 2 = 0b10#2) :
    encStack (fStackFunct3 w) (fUimm w) (fReg w) = w := by
  unfold encStack
  rw [← hu, ← hq]
  unfold fStackFunct3 fUimm fReg bits
  apply BitVec.eq_of_getLsbD_eq
  intro i hi
  rw [BitVec.getLsbD_append, BitVec.getLsbD_append, BitVec.getLsbD_append, BitVec.getLsbD_append]
  interval_cases i <;> simp

theorem fOffsetB_even (w : Word) : evenOffset (fOffsetB w) = true := by
  unfold evenOffset fOffsetB
  rw [BitVec.getLsbD_append]
  simp

theorem fOffsetJ_even (w : Word) : evenOffset (fOffsetJ w) = true := by
  unfold evenOffset fOffsetJ
  rw [BitVec.getLsbD_append]
  simp

/-- The upper bits and bit 5 of the shift amount, read off funct7: the fields overlap in `IR[25]` (R84). -/
theorem shift_fields (w : Word) :
    bits w 26 6 = (fFunct7 w).extractLsb' 1 6 ∧ (fShamt w).getLsbD 5 = (fFunct7 w).getLsbD 0 := by
  constructor
  · apply BitVec.eq_of_getLsbD_eq
    intro i hi
    interval_cases i <;> simp [bits, fFunct7]
  · simp [fFunct7, fShamt, bits]

/-! What the decoder's parts can answer -/

/-- An entry that `select` answers is on its list, under the code. -/
theorem select_ok {n : Nat} {α : Type} {c : BitVec n} {why : Illegal} {l : List (BitVec n × α)} {a : α}
    (h : select c why l = .ok a) : (c, a) ∈ l := by
  induction l with
  | nil => simp [select] at h
  | cons p rest ih =>
    obtain ⟨k, b⟩ := p
    unfold select at h
    split at h
    · rename_i hk
      simp at h
      simp [hk, h]
    · exact List.mem_cons_of_mem _ (ih h)

/-- Two concatenations of a funct7 and a funct3 are the same only if both parts are. -/
theorem functs_inj {a c : BitVec 7} {b d : BitVec 3} (h : (a ++ b : BitVec 10) = c ++ d) : a = c ∧ b = d := by
  constructor
  · have h' := congrArg (fun z : BitVec 10 => z.extractLsb' 3 7) h
    beta_reduce at h'
    rw [bits_of_high _ _ (by decide), bits_of_high _ _ (by decide)] at h'
    rw [← BitVec.extractLsb'_eq_self (x := a), ← BitVec.extractLsb'_eq_self (x := c)]
    exact h'
  · have h' := congrArg (fun z : BitVec 10 => z.extractLsb' 0 3) h
    beta_reduce at h'
    rw [bits_of_low _ _ (by decide), bits_of_low _ _ (by decide)] at h'
    rw [← BitVec.extractLsb'_eq_self (x := b), ← BitVec.extractLsb'_eq_self (x := d)]
    exact h'

/-! A layout under the masks of the opcode map (R101) -/

/-- A field of a masked word is the word's field under the mask's. -/
theorem bits_and (w m : Word) (lo len : Nat) : bits (w &&& m) lo len = bits w lo len &&& bits m lo len :=
  BitVec.extractLsb'_and

theorem encU_masked (imm : BitVec 20) (rd : Reg) (op : BitVec 7) :
    encU imm rd op &&& 0x0000007F#32 = 0#25 ++ op := by
  unfold encU
  apply BitVec.eq_of_getLsbD_eq
  intro i hi
  rw [BitVec.getLsbD_and, BitVec.getLsbD_append, BitVec.getLsbD_append, BitVec.getLsbD_append]
  interval_cases i <;> simp

theorem encJ_masked (offset : BitVec 21) (rd : Reg) :
    encJ offset rd &&& 0x0000007F#32 = 0#25 ++ 0b1101111#7 := by
  unfold encJ
  apply BitVec.eq_of_getLsbD_eq
  intro i hi
  rw [BitVec.getLsbD_and, BitVec.getLsbD_append, BitVec.getLsbD_append]
  interval_cases i <;> simp

theorem encI_masked (imm : BitVec 12) (rs1 : Reg) (f3 : BitVec 3) (rd : Reg) (op : BitVec 7) :
    encI imm rs1 f3 rd op &&& 0x0000707F#32 = 0#17 ++ f3 ++ 0#5 ++ op := by
  unfold encI
  apply BitVec.eq_of_getLsbD_eq
  intro i hi
  rw [BitVec.getLsbD_and, BitVec.getLsbD_append, BitVec.getLsbD_append, BitVec.getLsbD_append,
    BitVec.getLsbD_append, BitVec.getLsbD_append, BitVec.getLsbD_append, BitVec.getLsbD_append]
  interval_cases i <;> simp

theorem encB_masked (offset : BitVec 13) (rs2 rs1 : Reg) (f3 : BitVec 3) :
    encB offset rs2 rs1 f3 &&& 0x0000707F#32 = 0#17 ++ f3 ++ 0#5 ++ 0b1100011#7 := by
  unfold encB
  apply BitVec.eq_of_getLsbD_eq
  intro i hi
  rw [BitVec.getLsbD_and, BitVec.getLsbD_append, BitVec.getLsbD_append, BitVec.getLsbD_append,
    BitVec.getLsbD_append, BitVec.getLsbD_append, BitVec.getLsbD_append, BitVec.getLsbD_append,
    BitVec.getLsbD_append, BitVec.getLsbD_append, BitVec.getLsbD_append]
  interval_cases i <;> simp

theorem encR_masked (f7 : BitVec 7) (rs2 rs1 : Reg) (f3 : BitVec 3) (rd : Reg) (op : BitVec 7) :
    encR f7 rs2 rs1 f3 rd op &&& 0xFE00707F#32 = f7 ++ 0#10 ++ f3 ++ 0#5 ++ op := by
  unfold encR
  apply BitVec.eq_of_getLsbD_eq
  intro i hi
  rw [BitVec.getLsbD_and, BitVec.getLsbD_append, BitVec.getLsbD_append, BitVec.getLsbD_append,
    BitVec.getLsbD_append, BitVec.getLsbD_append, BitVec.getLsbD_append, BitVec.getLsbD_append,
    BitVec.getLsbD_append, BitVec.getLsbD_append]
  interval_cases i <;> simp

theorem encShift_masked (u : BitVec 6) {shamt : BitVec 6} (h : validShamt shamt = true) (rs1 : Reg) (f3 : BitVec 3)
    (rd : Reg) :
    encShift u shamt rs1 f3 rd &&& 0xFE00707F#32 = u ++ 0#11 ++ f3 ++ 0#5 ++ 0b0010011#7 := by
  have h0 : shamt[5] = false := by simpa [validShamt] using h
  unfold encShift
  apply BitVec.eq_of_getLsbD_eq
  intro i hi
  rw [BitVec.getLsbD_and, BitVec.getLsbD_append, BitVec.getLsbD_append, BitVec.getLsbD_append,
    BitVec.getLsbD_append, BitVec.getLsbD_append, BitVec.getLsbD_append, BitVec.getLsbD_append,
    BitVec.getLsbD_append, BitVec.getLsbD_append]
  interval_cases i <;> simp [h0]

theorem encStack_masked (f3 : BitVec 3) (uimm : BitVec 6) (reg : BitVec 5) :
    encStack f3 uimm reg &&& 0xFFFFE003#32 = 0#16 ++ f3 ++ 0#11 ++ 0b10#2 := by
  unfold encStack
  apply BitVec.eq_of_getLsbD_eq
  intro i hi
  rw [BitVec.getLsbD_and, BitVec.getLsbD_append, BitVec.getLsbD_append, BitVec.getLsbD_append,
    BitVec.getLsbD_append, BitVec.getLsbD_append, BitVec.getLsbD_append, BitVec.getLsbD_append]
  interval_cases i <;> simp

end Sys2Proof
end

