-- ==== Sys2Proof/Laws/Memory.lean ====
section
/-! SUPPORT. The laws of memory: read after write, the canonical form kept by every memory operation, and what
each access can do (spec/20_memory.md R52 to R54). -/

namespace Sys2Proof.Machine

theorem cellsRead_erase (a b : Nat) (l : List Host.Cell) :
    cellsRead (cellsErase a l) b = if b = a then 0#8 else cellsRead l b := by
  induction l with
  | nil => simp [cellsErase, cellsRead]
  | cons c rest ih =>
    obtain ⟨k, v⟩ := c
    by_cases hk : k = a
    · simp only [cellsErase, hk, if_true, ih, cellsRead]
      by_cases hb : b = a
      · simp [hb]
      · rw [if_neg hb, if_neg (Ne.symm hb), if_neg hb]
    · simp only [cellsErase, hk, if_false, cellsRead, ih]
      by_cases hb : b = a
      · subst hb; simp [hk]
      · simp [hb]

theorem cellsRead_insert (a b : Nat) (v : Byte) (l : List Host.Cell) (h : cellsRead l a = 0#8)
    (hl : ∀ c ∈ l, c.1 ≠ a) : cellsRead (cellsInsert a v l) b = if b = a then v else cellsRead l b := by
  induction l with
  | nil => simp [cellsInsert, cellsRead, eq_comm]
  | cons c rest ih =>
    obtain ⟨k, w⟩ := c
    have hk : k ≠ a := hl (k, w) (by simp)
    have h' : cellsRead rest a = 0#8 := by simpa [cellsRead, hk] using h
    unfold cellsInsert
    split
    · simp [cellsRead, eq_comm]
    · simp only [cellsRead, ih h' fun c hc => hl c (by simp [hc])]
      by_cases hb : b = a
      · subst hb; simp [hk]
      · simp [hb]

theorem cellsErase_ne (a : Nat) (l : List Host.Cell) : ∀ c ∈ cellsErase a l, c.1 ≠ a := by
  induction l with
  | nil => simp [cellsErase]
  | cons c rest ih =>
    obtain ⟨k, v⟩ := c
    unfold cellsErase
    split
    · exact ih
    · intro c hc
      rcases List.mem_cons.mp hc with rfl | hc
      · assumption
      · exact ih c hc

/-- Reading a byte after writing one: the written address gives the new byte, every other what it gave before. -/
theorem Memory.read_write (m : Memory) (a b : Nat) (v : Byte) :
    (m.write a v).read b = if b = a then v else m.read b := by
  unfold Memory.write Memory.read
  split
  · rename_i hv; simp [cellsRead_erase, hv]
  · have h0 : cellsRead (cellsErase a m.cells) a = 0#8 := by simp [cellsRead_erase]
    rw [cellsRead_insert a b v _ h0 (cellsErase_ne a m.cells), cellsRead_erase]
    by_cases hb : b = a <;> simp [hb]

theorem cellsWf_mono {lo lo' : Nat} (h : lo' ≤ lo) {l : List Host.Cell} (hw : cellsWf lo l = true) :
    cellsWf lo' l = true := by
  cases l with
  | nil => rfl
  | cons c rest =>
    obtain ⟨k, v⟩ := c
    simp only [cellsWf, Bool.and_eq_true, decide_eq_true_eq] at hw ⊢
    exact ⟨⟨⟨by omega, hw.1.1.2⟩, hw.1.2⟩, hw.2⟩

theorem cellsWf_erase (a : Nat) {l : List Host.Cell} {lo : Nat} (h : cellsWf lo l = true) :
    cellsWf lo (cellsErase a l) = true := by
  induction l generalizing lo with
  | nil => rfl
  | cons c rest ih =>
    obtain ⟨k, v⟩ := c
    simp only [cellsWf, Bool.and_eq_true, decide_eq_true_eq] at h
    unfold cellsErase
    split
    · exact cellsWf_mono (by omega) (ih h.2)
    · simp only [cellsWf, Bool.and_eq_true, decide_eq_true_eq]
      exact ⟨h.1, ih h.2⟩

theorem cellsWf_insert {a : Nat} {v : Byte} (ha : a < 4294967296) (hv : v ≠ 0#8) {l : List Host.Cell} {lo : Nat}
    (hlo : lo ≤ a) (hne : ∀ c ∈ l, c.1 ≠ a) (h : cellsWf lo l = true) : cellsWf lo (cellsInsert a v l) = true := by
  induction l generalizing lo with
  | nil => simp [cellsInsert, cellsWf, ha, hv, hlo]
  | cons c rest ih =>
    obtain ⟨k, w⟩ := c
    have hk : k ≠ a := hne (k, w) (by simp)
    simp only [cellsWf, Bool.and_eq_true, decide_eq_true_eq] at h
    unfold cellsInsert
    split
    · simp only [cellsWf, Bool.and_eq_true, decide_eq_true_eq]
      exact ⟨⟨⟨hlo, ha⟩, hv⟩, ⟨⟨by omega, h.1.1.2⟩, h.1.2⟩, h.2⟩
    · simp only [cellsWf, Bool.and_eq_true, decide_eq_true_eq]
      exact ⟨h.1, ih (by omega) (fun c hc => hne c (by simp [hc])) h.2⟩

/-- Writing a byte inside the address space keeps the canonical form. -/
theorem Memory.write_wf {m : Memory} (h : m.wf = true) {a : Nat} (ha : a < 4294967296) (v : Byte) :
    (m.write a v).wf = true := by
  unfold Memory.write Memory.wf
  split
  · exact cellsWf_erase a h
  · rename_i hv
    exact cellsWf_insert ha hv (Nat.zero_le a) (cellsErase_ne a m.cells) (cellsWf_erase a h)

theorem State.putByte_wf {s : State} (h : s.mem.wf = true) (a : Word) (b : Byte) :
    (s.putByte a b).mem.wf = true := Memory.write_wf h a.isLt b

theorem State.putHalf_wf {s : State} (h : s.mem.wf = true) (a : Word) (v : Half) : (s.putHalf a v).mem.wf = true :=
  State.putByte_wf (State.putByte_wf h _ _) _ _

theorem State.putWord_wf {s : State} (h : s.mem.wf = true) (a v : Word) : (s.putWord a v).mem.wf = true :=
  State.putByte_wf (State.putByte_wf (State.putByte_wf (State.putByte_wf h _ _) _ _) _ _) _ _

/-- Reading a byte after one byte is written. -/
theorem State.putByte_read (s : State) (a : Word) (v : Byte) (b : Nat) :
    (s.putByte a v).mem.read b = if b = a.toNat then v else s.mem.read b := Memory.read_write s.mem a.toNat b v

/-- R53: a halfword store leaves every byte but its two as it was. -/
theorem State.putHalf_read_outside (s : State) (a : Word) (v : Half) (b : Nat)
    (h : ∀ c ∈ accessBytes a .half, b ≠ c.toNat) : (s.putHalf a v).mem.read b = s.mem.read b := by
  have h0 := h a (by simp [accessBytes])
  have h1 := h (a + 1#32) (by simp [accessBytes])
  unfold State.putHalf
  rw [State.putByte_read, State.putByte_read, if_neg h1, if_neg h0]

/-- R53: a word store leaves every byte but its four as it was. -/
theorem State.putWord_read_outside (s : State) (a v : Word) (b : Nat)
    (h : ∀ c ∈ accessBytes a .word, b ≠ c.toNat) : (s.putWord a v).mem.read b = s.mem.read b := by
  have h0 := h a (by simp [accessBytes])
  have h1 := h (a + 1#32) (by simp [accessBytes])
  have h2 := h (a + 2#32) (by simp [accessBytes])
  have h3 := h (a + 3#32) (by simp [accessBytes])
  unfold State.putWord
  rw [State.putByte_read, State.putByte_read, State.putByte_read, State.putByte_read, if_neg h3, if_neg h2,
    if_neg h1, if_neg h0]

/-- The alignment check says that the address is a multiple of the width (R54). -/
theorem alignedFor_iff (a : Word) (w : Width) : alignedFor a w = true ↔ a.toNat % w.bytes = 0 := by
  unfold alignedFor
  exact decide_eq_true_iff

/-- The two bytes of a halfword, joined in the order they were split in, are the halfword. -/
theorem joinHalf_bytes (o : Config.ByteOrder) (v : Half) : joinHalf o (byteOfHalf o v 0) (byteOfHalf o v 1) = v := by
  cases o <;> simp only [joinHalf, byteOfHalf] <;> apply BitVec.eq_of_getLsbD_eq <;> intro i hi <;>
    rw [BitVec.getLsbD_append] <;> interval_cases i <;> simp

/-- The four bytes of a word, joined in the order they were split in, are the word. -/
theorem joinWord_bytes (o : Config.ByteOrder) (v : Word) :
    joinWord o (byteOfWord o v 0) (byteOfWord o v 1) (byteOfWord o v 2) (byteOfWord o v 3) = v := by
  cases o <;> simp only [joinWord, byteOfWord] <;> apply BitVec.eq_of_getLsbD_eq <;> intro i hi <;>
    rw [BitVec.getLsbD_append, BitVec.getLsbD_append, BitVec.getLsbD_append] <;> interval_cases i <;> simp

/-- The bytes of one access are at different addresses, even across the top of the address space. -/
theorem access_bytes_ne (a : Word) {i j : Nat} (hi : i < 4) (hj : j < 4) (hij : i ≠ j) :
    (a + BitVec.ofNat 32 i).toNat ≠ (a + BitVec.ofNat 32 j).toNat := by
  intro h
  have := a.isLt
  rw [BitVec.toNat_add, BitVec.toNat_add] at h
  simp at h
  omega

/-- The bytes that a halfword store leaves. -/
theorem State.putHalf_byteAt (s : State) (a : Word) (v : Half) :
    (s.putHalf a v).byteAt a = byteOfHalf s.cfg.byteOrder v 0 ∧
    (s.putHalf a v).byteAt (a + 1#32) = byteOfHalf s.cfg.byteOrder v 1 := by
  have h01 := access_bytes_ne a (i := 0) (j := 1) (by decide) (by decide) (by decide)
  rw [BitVec.add_zero] at h01
  unfold State.byteAt State.putHalf
  refine ⟨?_, ?_⟩ <;> rw [State.putByte_read, State.putByte_read]
  · rw [if_neg h01, if_pos rfl]
  · rw [if_pos rfl]

/-- The bytes that a word store leaves. -/
theorem State.putWord_byteAt (s : State) (a v : Word) :
    (s.putWord a v).byteAt a = byteOfWord s.cfg.byteOrder v 0 ∧
    (s.putWord a v).byteAt (a + 1#32) = byteOfWord s.cfg.byteOrder v 1 ∧
    (s.putWord a v).byteAt (a + 2#32) = byteOfWord s.cfg.byteOrder v 2 ∧
    (s.putWord a v).byteAt (a + 3#32) = byteOfWord s.cfg.byteOrder v 3 := by
  have h01 := access_bytes_ne a (i := 0) (j := 1) (by decide) (by decide) (by decide)
  have h02 := access_bytes_ne a (i := 0) (j := 2) (by decide) (by decide) (by decide)
  have h03 := access_bytes_ne a (i := 0) (j := 3) (by decide) (by decide) (by decide)
  have h12 := access_bytes_ne a (i := 1) (j := 2) (by decide) (by decide) (by decide)
  have h13 := access_bytes_ne a (i := 1) (j := 3) (by decide) (by decide) (by decide)
  have h23 := access_bytes_ne a (i := 2) (j := 3) (by decide) (by decide) (by decide)
  rw [BitVec.add_zero] at h01 h02 h03
  unfold State.byteAt State.putWord
  refine ⟨?_, ?_, ?_, ?_⟩ <;>
    rw [State.putByte_read, State.putByte_read, State.putByte_read, State.putByte_read]
  · rw [if_neg h03, if_neg h02, if_neg h01, if_pos rfl]
  · rw [if_neg h13, if_neg h12, if_pos rfl]
  · rw [if_neg h23, if_pos rfl]
  · rw [if_pos rfl]

/-- The halfword read where a halfword was put is that halfword. -/
theorem State.putHalf_halfAt (s : State) (a : Word) (v : Half) : (s.putHalf a v).halfAt a = v := by
  obtain ⟨h0, h1⟩ := State.putHalf_byteAt s a v
  unfold State.halfAt
  rw [h0, h1]
  exact joinHalf_bytes _ _

/-- The word read where a word was put is that word. -/
theorem State.putWord_wordAt (s : State) (a v : Word) : (s.putWord a v).wordAt a = v := by
  obtain ⟨h0, h1, h2, h3⟩ := State.putWord_byteAt s a v
  unfold State.wordAt
  rw [h0, h1, h2, h3]
  exact joinWord_bytes _ _

/-- Everything the checks of an access can answer, in the order of R242. -/
theorem State.checkAccess_cases (s : State) (a : Word) (w : Width) :
    (alignedFor a w = false ∧ s.checkAccess a w = .error (.misalignedAccess a s.pc)) ∨
    (alignedFor a w = true ∧ s.backed a w = false ∧ s.checkAccess a w = .error (.accessFault a s.pc)) ∨
    (alignedFor a w = true ∧ s.backed a w = true ∧ s.checkAccess a w = .ok ()) := by
  unfold State.checkAccess State.raise
  cases h1 : alignedFor a w
  · simp
  · cases h2 : s.backed a w <;> simp

/-- An access that passes the checks is aligned and backed. -/
theorem State.checkAccess_ok {s : State} {a : Word} {w : Width} (h : s.checkAccess a w = .ok ()) :
    alignedFor a w = true ∧ s.backed a w = true := by
  rcases s.checkAccess_cases a w with ⟨_, e⟩ | ⟨_, _, e⟩ | ⟨h1, h2, _⟩
  · rw [e] at h; cases h
  · rw [e] at h; cases h
  · exact ⟨h1, h2⟩

/-- Plain memory is backed. -/
theorem State.plainMemory_backed {s : State} {a : Word} {w : Width} (h : s.plainMemory a w = true) :
    s.backed a w = true := by
  simp only [State.plainMemory, State.backed, List.all_eq_true, beq_iff_eq] at h ⊢
  intro b hb
  rw [h b hb]
  rfl

/-- An access that is aligned and backed passes the checks. -/
theorem State.checkAccess_of_backed {s : State} {a : Word} {w : Width} (h : alignedFor a w = true)
    (hb : s.backed a w = true) : s.checkAccess a w = .ok () := by
  simp [State.checkAccess, h, hb]

/-- An access that is aligned and plain memory throughout passes the checks. -/
theorem State.checkAccess_of_accessible {s : State} {a : Word} {w : Width} (h : s.accessible a w = true) :
    s.checkAccess a w = .ok () := by
  simp only [State.accessible, Bool.and_eq_true] at h
  exact State.checkAccess_of_backed h.1 (State.plainMemory_backed h.2)

/-- An accessible access is to plain memory. -/
theorem State.accessible_plain {s : State} {a : Word} {w : Width} (h : s.accessible a w = true) :
    s.plainMemory a w = true := by
  simp only [State.accessible, Bool.and_eq_true] at h
  exact h.2

/-- A byte of plain memory answers with what memory holds (R58). -/
theorem State.answer_plain {s : State} {a b : Word} {w : Width} (h : s.plainMemory a w = true)
    (hb : b ∈ accessBytes a w) : s.answer b = s.byteAt b := by
  simp only [State.plainMemory, List.all_eq_true, beq_iff_eq] at h
  simp [State.answer, State.deviceAt, h b hb]

/-- A halfword of plain memory answers with what memory holds. -/
theorem State.answerHalf_plain {s : State} {a : Word} (h : s.plainMemory a .half = true) :
    s.answerHalf a = s.halfAt a := by
  unfold State.answerHalf State.halfAt
  rw [State.answer_plain h (by simp [accessBytes]), State.answer_plain h (by simp [accessBytes])]

/-- A word of plain memory answers with what memory holds. -/
theorem State.answerWord_plain {s : State} {a : Word} (h : s.plainMemory a .word = true) :
    s.answerWord a = s.wordAt a := by
  unfold State.answerWord State.wordAt
  rw [State.answer_plain h (by simp [accessBytes]), State.answer_plain h (by simp [accessBytes]),
    State.answer_plain h (by simp [accessBytes]), State.answer_plain h (by simp [accessBytes])]

/-- R238: a misaligned access stops at the first check. -/
theorem State.checkAccess_misaligned {s : State} {a : Word} {w : Width} (h : a.toNat % w.bytes ≠ 0) :
    s.checkAccess a w = .error (.misalignedAccess a s.pc) := by
  simp [State.checkAccess, alignedFor, State.raise, h]

/-- R239: an aligned access that touches a byte outside MEM_MAP stops at the second check. -/
theorem State.checkAccess_unbacked {s : State} {a : Word} {w : Width} (h : a.toNat % w.bytes = 0)
    (hb : s.backed a w = false) : s.checkAccess a w = .error (.accessFault a s.pc) := by
  simp [State.checkAccess, alignedFor, State.raise, h, hb]

/-- A read of a byte of plain memory gives what memory holds. -/
theorem State.readByte_accessible {s : State} {a : Word} (h : s.accessible a .byte = true) :
    s.readByte a = .ok (s.byteAt a) := by
  simp [State.readByte, State.checkAccess_of_accessible h, Except.map,
    State.answer_plain (State.accessible_plain h) (b := a) (by simp [accessBytes])]

/-- A read of a halfword of plain memory gives what memory holds. -/
theorem State.readHalf_accessible {s : State} {a : Word} (h : s.accessible a .half = true) :
    s.readHalf a = .ok (s.halfAt a) := by
  simp [State.readHalf, State.checkAccess_of_accessible h, Except.map,
    State.answerHalf_plain (State.accessible_plain h)]

/-- A read of a word of plain memory gives what memory holds. -/
theorem State.readWord_accessible {s : State} {a : Word} (h : s.accessible a .word = true) :
    s.readWord a = .ok (s.wordAt a) := by
  simp [State.readWord, State.checkAccess_of_accessible h, Except.map,
    State.answerWord_plain (State.accessible_plain h)]

/-- A fetch from plain memory gives the word that memory holds at the pc. -/
theorem State.fetch_accessible {s : State} (h : s.accessible s.pc .word = true) : s.fetch = .ok (s.wordAt s.pc) :=
  State.readWord_accessible h

/-- A store of a byte to plain memory completes, and leaves no note. -/
theorem State.writeByte_accessible {s : State} {a : Word} (h : s.accessible a .byte = true) (v : Byte) :
    s.writeByte a v = .ok ((s.latchAddr a).putByte a v) := by
  simp [State.writeByte, State.checkAccess_of_accessible h, Except.map,
    State.noteWrite_plain (State.accessible_plain h)]

/-- A store of a halfword to plain memory completes, and leaves no note. -/
theorem State.writeHalf_accessible {s : State} {a : Word} (h : s.accessible a .half = true) (v : Half) :
    s.writeHalf a v = .ok ((s.latchAddr a).putHalf a v) := by
  simp [State.writeHalf, State.checkAccess_of_accessible h, Except.map,
    State.noteWrite_plain (State.accessible_plain h)]

/-- A store of a word to plain memory completes, and leaves no note. -/
theorem State.writeWord_accessible {s : State} {a : Word} (h : s.accessible a .word = true) (v : Word) :
    s.writeWord a v = .ok ((s.latchAddr a).putWord a v) := by
  simp [State.writeWord, State.checkAccess_of_accessible h, Except.map,
    State.noteWrite_plain (State.accessible_plain h)]

/-- An operation after one that may raise a fault gave a result only if the first did. -/
theorem map_ok {α β : Type} {f : α → β} {e : Except Fault α} {b : β} (h : e.map f = .ok b) :
    ∃ a, e = .ok a ∧ b = f a := by
  cases e with
  | error x => simp [Except.map] at h
  | ok a => exact ⟨a, rfl, by simpa [Except.map] using h.symm⟩

/-- A store of a byte that gives a next state gives this one. -/
theorem State.writeByte_ok {s t : State} {a : Word} {v : Byte} (h : s.writeByte a v = .ok t) :
    alignedFor a .byte = true ∧ s.backed a .byte = true ∧
      t = ((s.noteWrite a .byte (v.zeroExtend 32)).latchAddr a).putByte a v := by
  obtain ⟨_, hc, rfl⟩ := map_ok h
  exact ⟨(State.checkAccess_ok hc).1, (State.checkAccess_ok hc).2, rfl⟩

/-- A store of a halfword that gives a next state gives this one. -/
theorem State.writeHalf_ok {s t : State} {a : Word} {v : Half} (h : s.writeHalf a v = .ok t) :
    alignedFor a .half = true ∧ s.backed a .half = true ∧
      t = ((s.noteWrite a .half (v.zeroExtend 32)).latchAddr a).putHalf a v := by
  obtain ⟨_, hc, rfl⟩ := map_ok h
  exact ⟨(State.checkAccess_ok hc).1, (State.checkAccess_ok hc).2, rfl⟩

/-- A store of a word that gives a next state gives this one. -/
theorem State.writeWord_ok {s t : State} {a v : Word} (h : s.writeWord a v = .ok t) :
    alignedFor a .word = true ∧ s.backed a .word = true ∧
      t = ((s.noteWrite a .word v).latchAddr a).putWord a v := by
  obtain ⟨_, hc, rfl⟩ := map_ok h
  exact ⟨(State.checkAccess_ok hc).1, (State.checkAccess_ok hc).2, rfl⟩

/-- A read of a word that gives a value gives this one. -/
theorem State.readWord_ok {s : State} {a v : Word} (h : s.readWord a = .ok v) :
    alignedFor a .word = true ∧ s.backed a .word = true ∧ v = s.answerWord a := by
  obtain ⟨_, hc, rfl⟩ := map_ok h
  exact ⟨(State.checkAccess_ok hc).1, (State.checkAccess_ok hc).2, rfl⟩

/-- A load that gives a next state read a value and wrote it to `rd`. -/
theorem State.load_next {s t : State} {rd : Reg} {a : Word} {w : Width} {v : Except Fault Word}
    (h : s.load rd a w v = .next t) : ∃ u, v = .ok u ∧ t = ((s.noteRead a w).latchAddr a).writeBack rd u := by
  cases v with
  | error e => simp [State.load, Except.map, finish] at h
  | ok u => exact ⟨u, rfl, by simpa [State.load, Except.map, finish] using h.symm⟩

/-- An instruction's operations gave a next state only if none of them raised a fault. -/
theorem finish_next {r : Except Fault State} {t : State} (h : finish r = .next t) : r = .ok t := by
  cases r with
  | error e => simp [finish] at h
  | ok u => simpa [finish] using h

/-- The memory after a reset with nothing loaded is canonical. -/
theorem reset_mem_wf : State.reset.mem.wf = true := rfl

end Sys2Proof.Machine
end

