-- ==== Sys2Proof/Laws/Exec.lean ====
section
/-! SUPPORT. What an instruction that gives a next state can have done, said once: a proof over all instructions
splits on the shape, not on the 46 meanings. -/

namespace Sys2Proof.Machine

/-- The next states that the instruction `i` can give from `s`. -/
inductive ExecShape (s : State) (i : Instr) : State → Prop
  | result (rd : Reg) (v : Word) : i.kind = .compute → ExecShape s i (s.writeBack rd v)
  | shifted (k : ShiftKind) (rd : Reg) (v u : Word) : i.kind = .compute →
      ExecShape s i ((s.latchShift k u).writeBack rd v)
  | jumped (rd : Reg) (t : Word) : i.kind = .jump → alignedTarget t = true →
      ExecShape s i ((s.setX rd (s.pc + 4#32)).setPc t)
  | branched (t : Word) : i.kind = .branch → alignedTarget t = true → ExecShape s i (s.setPc t)
  | passed : i.kind = .branch → ExecShape s i s.advance
  | loaded (rd : Reg) (a : Word) (w : Width) (v : Word) : i.kind = .load →
      ExecShape s i (((s.noteRead a w).latchAddr a).writeBack rd v)
  | storedByte (a : Word) (v : Byte) : i.kind = .store →
      ExecShape s i (((s.noteWrite a .byte (v.zeroExtend 32)).latchAddr a).putByte a v).advance
  | storedHalf (a : Word) (v : Half) : i.kind = .store →
      ExecShape s i (((s.noteWrite a .half (v.zeroExtend 32)).latchAddr a).putHalf a v).advance
  | storedWord (a v : Word) : i.kind = .store →
      ExecShape s i (((s.noteWrite a .word v).latchAddr a).putWord a v).advance
  | csrWritten (rd : Reg) (a : CsrAddr) (e : CsrEntry) (v : Word) : i.kind = .csr →
      csrFind s.csrs a = some e →
      ExecShape s i ((((s.csrEffects .read e.decl.effects).setCsr a v).csrEffects .write
        e.decl.effects).writeBack rd e.value)
  | pushed (a v sp : Word) : i.kind = .store →
      ExecShape s i ((((s.noteWrite a .word v).latchAddr a).putWord a v).setX spReg sp).advance
  | popped (a : Word) (rd : Reg) (v : Word) : i.kind = .load →
      ExecShape s i (((s.noteRead a .word).latchAddr a).popWrite rd v).advance

/-- Every next state of every instruction has one of the shapes. -/
theorem exec_shape {i : Instr} {s t : State} (h : exec i s = .next t) : ExecShape s i t := by
  cases i
  case lui | auipc | addi | slti | sltiu | xori | ori | andi | add | sub | slt | sltu | xor | or | and | mul =>
    cases h
    exact .result _ _ rfl
  case sll | srl | sra =>
    cases h
    exact .shifted _ _ _ _ rfl
  case slli | srli | srai =>
    simp only [exec, execSlli, execSrli, execSrai, State.shiftImm] at h
    split at h
    · cases h
      exact .shifted _ _ _ _ rfl
    · cases h
  case jal | jalr =>
    obtain ⟨ha, rfl⟩ := State.jumpAndLink_next h
    exact .jumped _ _ rfl ha
  case beq | bne | blt | bge | bltu | bgeu =>
    obtain ⟨_, ha, rfl⟩ | ⟨_, rfl⟩ := State.branch_next h
    · exact .branched _ rfl ha
    · exact .passed rfl
  case lb | lh | lw | lbu | lhu =>
    obtain ⟨w, _, rfl⟩ := State.load_next h
    exact .loaded _ _ _ _ rfl
  case sb =>
    obtain ⟨u, h1, rfl⟩ := map_ok (finish_next h)
    obtain ⟨_, _, rfl⟩ := State.writeByte_ok h1
    exact .storedByte _ _ rfl
  case sh =>
    obtain ⟨u, h1, rfl⟩ := map_ok (finish_next h)
    obtain ⟨_, _, rfl⟩ := State.writeHalf_ok h1
    exact .storedHalf _ _ rfl
  case sw =>
    obtain ⟨u, h1, rfl⟩ := map_ok (finish_next h)
    obtain ⟨_, _, rfl⟩ := State.writeWord_ok h1
    exact .storedWord _ _ rfl
  case swsp =>
    obtain ⟨u, h1, rfl⟩ := map_ok (finish_next h)
    obtain ⟨_, _, rfl⟩ := State.writeWord_ok h1
    exact .pushed _ _ _ rfl
  case lwsp =>
    obtain ⟨u, h1, rfl⟩ := map_ok (finish_next h)
    exact .popped _ _ _ rfl
  case csrrw | csrrs | csrrc | csrrwi | csrrsi | csrrci =>
    simp only [exec, execCsrrw, execCsrrs, execCsrrc, execCsrrwi, execCsrrsi, execCsrrci] at h
    obtain ⟨e, he, rfl⟩ := State.csrAccess_next h
    exact .csrWritten _ _ _ _ rfl he

/-- A step that gives a next state fetched a word, decoded it, and ran the instruction. -/
theorem step_next {s t : State} (h : step s = .next t) :
    ∃ w i, s.fetch = .ok w ∧ decode w = .ok i ∧ exec i ((s.noteRead s.pc .word).latchFetch w) = .next t := by
  unfold step at h
  split at h
  · cases h
  · split at h
    · cases h
    · exact ⟨_, _, ‹_›, ‹_›, h⟩

/-- What LWSP writes: registers and the count of free values, nothing else. -/
theorem State.popWrite_frame (s : State) (rd : Reg) (v : Word) :
    (s.popWrite rd v).pc = s.pc ∧ (s.popWrite rd v).mem = s.mem ∧ (s.popWrite rd v).csrs = s.csrs ∧
    (s.popWrite rd v).cfg = s.cfg ∧ (s.popWrite rd v).hw = s.hw ∧ (s.popWrite rd v).io = s.io := by
  unfold State.popWrite
  split <;> [skip; split] <;> simp

/-- What the side effects of one trigger do to the CSR at `b`, if their results on it are stated. -/
theorem State.csrEffects_stated {b : CsrAddr} {l : List Config.CsrEffect}
    (h : ∀ f ∈ l, f.target = b → f.change ≠ .unstated) (s : State) (g : Config.CsrTrigger) :
    csrFind (s.csrEffects g l).csrs b =
      (csrFind s.csrs b).map fun e => { e with value := afterEffects g b l e.value } := by
  induction l generalizing s with
  | nil => simp [afterEffects]
  | cons f rest ih =>
    unfold State.csrEffects
    rw [ih fun f hf => h f (List.mem_cons_of_mem _ hf)]
    have hf := h f List.mem_cons_self
    rcases f with ⟨trigger, target, _ | _⟩
    · simp only [afterEffects, List.foldl_cons]
      by_cases h1 : trigger = g
      · by_cases h2 : target = b
        · simp only [h1, h2, if_true, State.csrEffect, csrFind_modify, and_self]
          cases csrFind s.csrs b <;> simp
        · simp only [h1, h2, if_true, State.csrEffect, csrFind_modify, and_false, if_false, Ne.symm h2]
          cases csrFind s.csrs b <;> simp
      · simp [h1]
    · have h2 : target ≠ b := fun e => hf e rfl
      simp only [afterEffects, List.foldl_cons]
      split <;> simp [State.csrEffect, csrFind_modify, Ne.symm h2]

end Sys2Proof.Machine
end

