-- ==== Sys2Proof/Laws/PerInstr.lean ====
section
/-! SUPPORT. What holds of every instruction as syntax, one lemma per constructor. -/

namespace Sys2Proof.Laws.EncodingRow

/-- R100: the word of a well-formed instruction, under the mask of its row of the opcode map, is the row's pattern. -/
def Statement (i : Instr) : Prop :=
  ∀ row ∈ opcodeMap, row.mnemonic = i.mnemonic → i.wellFormed = true → encode i &&& row.mask = row.pattern

/-- Only one row of the map has a given mnemonic, so a fact about that row is a fact about every row of the name. -/
theorem statement_of {i : Instr} {n : String} {m p : Word} (hn : i.mnemonic = n)
    (hr : opcodeMap.all (fun row => row.mnemonic != n || row.mask == m && row.pattern == p) = true)
    (he : i.wellFormed = true → encode i &&& m = p) : Statement i := by
  intro row hrow hrn hw
  have h := List.all_eq_true.mp hr row hrow
  simp [hrn, hn] at h
  rw [h.1, h.2]
  exact he hw

theorem lui (rd : Reg) (imm : BitVec 20) : Statement (.lui rd imm) :=
  statement_of (n := "LUI") (m := 0x0000007F#32) (p := 0x00000037#32)
    rfl (by decide) (fun _ => encU_masked _ _ _)

theorem auipc (rd : Reg) (imm : BitVec 20) : Statement (.auipc rd imm) :=
  statement_of (n := "AUIPC") (m := 0x0000007F#32) (p := 0x00000017#32)
    rfl (by decide) (fun _ => encU_masked _ _ _)

theorem jal (rd : Reg) (offset : BitVec 21) : Statement (.jal rd offset) :=
  statement_of (n := "JAL") (m := 0x0000007F#32) (p := 0x0000006F#32)
    rfl (by decide) (fun _ => encJ_masked _ _)

theorem jalr (rd rs1 : Reg) (imm : BitVec 12) : Statement (.jalr rd rs1 imm) :=
  statement_of (n := "JALR") (m := 0x0000707F#32) (p := 0x00000067#32)
    rfl (by decide) (fun _ => encI_masked _ _ _ _ _)

theorem beq (rs1 rs2 : Reg) (offset : BitVec 13) : Statement (.beq rs1 rs2 offset) :=
  statement_of (n := "BEQ") (m := 0x0000707F#32) (p := 0x00000063#32)
    rfl (by decide) (fun _ => encB_masked _ _ _ _)

theorem bne (rs1 rs2 : Reg) (offset : BitVec 13) : Statement (.bne rs1 rs2 offset) :=
  statement_of (n := "BNE") (m := 0x0000707F#32) (p := 0x00001063#32)
    rfl (by decide) (fun _ => encB_masked _ _ _ _)

theorem blt (rs1 rs2 : Reg) (offset : BitVec 13) : Statement (.blt rs1 rs2 offset) :=
  statement_of (n := "BLT") (m := 0x0000707F#32) (p := 0x00004063#32)
    rfl (by decide) (fun _ => encB_masked _ _ _ _)

theorem bge (rs1 rs2 : Reg) (offset : BitVec 13) : Statement (.bge rs1 rs2 offset) :=
  statement_of (n := "BGE") (m := 0x0000707F#32) (p := 0x00005063#32)
    rfl (by decide) (fun _ => encB_masked _ _ _ _)

theorem bltu (rs1 rs2 : Reg) (offset : BitVec 13) : Statement (.bltu rs1 rs2 offset) :=
  statement_of (n := "BLTU") (m := 0x0000707F#32) (p := 0x00006063#32)
    rfl (by decide) (fun _ => encB_masked _ _ _ _)

theorem bgeu (rs1 rs2 : Reg) (offset : BitVec 13) : Statement (.bgeu rs1 rs2 offset) :=
  statement_of (n := "BGEU") (m := 0x0000707F#32) (p := 0x00007063#32)
    rfl (by decide) (fun _ => encB_masked _ _ _ _)

theorem lb (rd rs1 : Reg) (imm : BitVec 12) : Statement (.lb rd rs1 imm) :=
  statement_of (n := "LB") (m := 0x0000707F#32) (p := 0x00000003#32)
    rfl (by decide) (fun _ => encI_masked _ _ _ _ _)

theorem lh (rd rs1 : Reg) (imm : BitVec 12) : Statement (.lh rd rs1 imm) :=
  statement_of (n := "LH") (m := 0x0000707F#32) (p := 0x00001003#32)
    rfl (by decide) (fun _ => encI_masked _ _ _ _ _)

theorem lw (rd rs1 : Reg) (imm : BitVec 12) : Statement (.lw rd rs1 imm) :=
  statement_of (n := "LW") (m := 0x0000707F#32) (p := 0x00002003#32)
    rfl (by decide) (fun _ => encI_masked _ _ _ _ _)

theorem lbu (rd rs1 : Reg) (imm : BitVec 12) : Statement (.lbu rd rs1 imm) :=
  statement_of (n := "LBU") (m := 0x0000707F#32) (p := 0x00004003#32)
    rfl (by decide) (fun _ => encI_masked _ _ _ _ _)

theorem lhu (rd rs1 : Reg) (imm : BitVec 12) : Statement (.lhu rd rs1 imm) :=
  statement_of (n := "LHU") (m := 0x0000707F#32) (p := 0x00005003#32)
    rfl (by decide) (fun _ => encI_masked _ _ _ _ _)

theorem sb (rs1 : Reg) (offset : BitVec 12) (low : BitVec 5) : Statement (.sb rs1 offset low) :=
  statement_of (n := "SB") (m := 0x0000707F#32) (p := 0x00000023#32)
    rfl (by decide) (fun _ => encI_masked _ _ _ _ _)

theorem sh (rs1 : Reg) (offset : BitVec 12) (low : BitVec 5) : Statement (.sh rs1 offset low) :=
  statement_of (n := "SH") (m := 0x0000707F#32) (p := 0x00001023#32)
    rfl (by decide) (fun _ => encI_masked _ _ _ _ _)

theorem sw (rs1 : Reg) (offset : BitVec 12) (low : BitVec 5) : Statement (.sw rs1 offset low) :=
  statement_of (n := "SW") (m := 0x0000707F#32) (p := 0x00002023#32)
    rfl (by decide) (fun _ => encI_masked _ _ _ _ _)

theorem addi (rd rs1 : Reg) (imm : BitVec 12) : Statement (.addi rd rs1 imm) :=
  statement_of (n := "ADDI") (m := 0x0000707F#32) (p := 0x00000013#32)
    rfl (by decide) (fun _ => encI_masked _ _ _ _ _)

theorem slti (rd rs1 : Reg) (imm : BitVec 12) : Statement (.slti rd rs1 imm) :=
  statement_of (n := "SLTI") (m := 0x0000707F#32) (p := 0x00002013#32)
    rfl (by decide) (fun _ => encI_masked _ _ _ _ _)

theorem sltiu (rd rs1 : Reg) (imm : BitVec 12) : Statement (.sltiu rd rs1 imm) :=
  statement_of (n := "SLTIU") (m := 0x0000707F#32) (p := 0x00003013#32)
    rfl (by decide) (fun _ => encI_masked _ _ _ _ _)

theorem xori (rd rs1 : Reg) (imm : BitVec 12) : Statement (.xori rd rs1 imm) :=
  statement_of (n := "XORI") (m := 0x0000707F#32) (p := 0x00004013#32)
    rfl (by decide) (fun _ => encI_masked _ _ _ _ _)

theorem ori (rd rs1 : Reg) (imm : BitVec 12) : Statement (.ori rd rs1 imm) :=
  statement_of (n := "ORI") (m := 0x0000707F#32) (p := 0x00006013#32)
    rfl (by decide) (fun _ => encI_masked _ _ _ _ _)

theorem andi (rd rs1 : Reg) (imm : BitVec 12) : Statement (.andi rd rs1 imm) :=
  statement_of (n := "ANDI") (m := 0x0000707F#32) (p := 0x00007013#32)
    rfl (by decide) (fun _ => encI_masked _ _ _ _ _)

theorem slli (rd rs1 : Reg) (shamt : BitVec 6) : Statement (.slli rd rs1 shamt) :=
  statement_of (n := "SLLI") (m := 0xFE00707F#32) (p := 0x00001013#32)
    rfl (by decide) (fun h => encShift_masked _ h _ _ _)

theorem srli (rd rs1 : Reg) (shamt : BitVec 6) : Statement (.srli rd rs1 shamt) :=
  statement_of (n := "SRLI") (m := 0xFE00707F#32) (p := 0x00005013#32)
    rfl (by decide) (fun h => encShift_masked _ h _ _ _)

theorem srai (rd rs1 : Reg) (shamt : BitVec 6) : Statement (.srai rd rs1 shamt) :=
  statement_of (n := "SRAI") (m := 0xFE00707F#32) (p := 0x40005013#32)
    rfl (by decide) (fun h => encShift_masked _ h _ _ _)

theorem add (rd rs1 rs2 : Reg) : Statement (.add rd rs1 rs2) :=
  statement_of (n := "ADD") (m := 0xFE00707F#32) (p := 0x00000033#32)
    rfl (by decide) (fun _ => encR_masked _ _ _ _ _ _)

theorem sub (rd rs1 rs2 : Reg) : Statement (.sub rd rs1 rs2) :=
  statement_of (n := "SUB") (m := 0xFE00707F#32) (p := 0x40000033#32)
    rfl (by decide) (fun _ => encR_masked _ _ _ _ _ _)

theorem sll (rd rs1 rs2 : Reg) : Statement (.sll rd rs1 rs2) :=
  statement_of (n := "SLL") (m := 0xFE00707F#32) (p := 0x00001033#32)
    rfl (by decide) (fun _ => encR_masked _ _ _ _ _ _)

theorem slt (rd rs1 rs2 : Reg) : Statement (.slt rd rs1 rs2) :=
  statement_of (n := "SLT") (m := 0xFE00707F#32) (p := 0x00002033#32)
    rfl (by decide) (fun _ => encR_masked _ _ _ _ _ _)

theorem sltu (rd rs1 rs2 : Reg) : Statement (.sltu rd rs1 rs2) :=
  statement_of (n := "SLTU") (m := 0xFE00707F#32) (p := 0x00003033#32)
    rfl (by decide) (fun _ => encR_masked _ _ _ _ _ _)

theorem xor (rd rs1 rs2 : Reg) : Statement (.xor rd rs1 rs2) :=
  statement_of (n := "XOR") (m := 0xFE00707F#32) (p := 0x00004033#32)
    rfl (by decide) (fun _ => encR_masked _ _ _ _ _ _)

theorem srl (rd rs1 rs2 : Reg) : Statement (.srl rd rs1 rs2) :=
  statement_of (n := "SRL") (m := 0xFE00707F#32) (p := 0x00005033#32)
    rfl (by decide) (fun _ => encR_masked _ _ _ _ _ _)

theorem sra (rd rs1 rs2 : Reg) : Statement (.sra rd rs1 rs2) :=
  statement_of (n := "SRA") (m := 0xFE00707F#32) (p := 0x40005033#32)
    rfl (by decide) (fun _ => encR_masked _ _ _ _ _ _)

theorem or (rd rs1 rs2 : Reg) : Statement (.or rd rs1 rs2) :=
  statement_of (n := "OR") (m := 0xFE00707F#32) (p := 0x00006033#32)
    rfl (by decide) (fun _ => encR_masked _ _ _ _ _ _)

theorem and (rd rs1 rs2 : Reg) : Statement (.and rd rs1 rs2) :=
  statement_of (n := "AND") (m := 0xFE00707F#32) (p := 0x00007033#32)
    rfl (by decide) (fun _ => encR_masked _ _ _ _ _ _)

theorem csrrw (rd : Reg) (csr : CsrAddr) (rs1 : Reg) : Statement (.csrrw rd csr rs1) :=
  statement_of (n := "CSRRW") (m := 0x0000707F#32) (p := 0x00001073#32)
    rfl (by decide) (fun _ => encI_masked _ _ _ _ _)

theorem csrrs (rd : Reg) (csr : CsrAddr) (rs1 : Reg) : Statement (.csrrs rd csr rs1) :=
  statement_of (n := "CSRRS") (m := 0x0000707F#32) (p := 0x00002073#32)
    rfl (by decide) (fun _ => encI_masked _ _ _ _ _)

theorem csrrc (rd : Reg) (csr : CsrAddr) (rs1 : Reg) : Statement (.csrrc rd csr rs1) :=
  statement_of (n := "CSRRC") (m := 0x0000707F#32) (p := 0x00003073#32)
    rfl (by decide) (fun _ => encI_masked _ _ _ _ _)

theorem csrrwi (rd : Reg) (csr : CsrAddr) (zimm : BitVec 5) : Statement (.csrrwi rd csr zimm) :=
  statement_of (n := "CSRRWI") (m := 0x0000707F#32) (p := 0x00005073#32)
    rfl (by decide) (fun _ => encI_masked _ _ _ _ _)

theorem csrrsi (rd : Reg) (csr : CsrAddr) (zimm : BitVec 5) : Statement (.csrrsi rd csr zimm) :=
  statement_of (n := "CSRRSI") (m := 0x0000707F#32) (p := 0x00006073#32)
    rfl (by decide) (fun _ => encI_masked _ _ _ _ _)

theorem csrrci (rd : Reg) (csr : CsrAddr) (zimm : BitVec 5) : Statement (.csrrci rd csr zimm) :=
  statement_of (n := "CSRRCI") (m := 0x0000707F#32) (p := 0x00007073#32)
    rfl (by decide) (fun _ => encI_masked _ _ _ _ _)

theorem mul (rd rs1 rs2 : Reg) : Statement (.mul rd rs1 rs2) :=
  statement_of (n := "MUL") (m := 0xFE00707F#32) (p := 0x02000033#32)
    rfl (by decide) (fun _ => encR_masked _ _ _ _ _ _)

theorem swsp (uimm : BitVec 6) (reg : BitVec 5) : Statement (.swsp uimm reg) :=
  statement_of (n := "SWSP") (m := 0xFFFFE003#32) (p := 0x0000C002#32)
    rfl (by decide) (fun _ => encStack_masked _ _ _)

theorem lwsp (uimm : BitVec 6) (reg : BitVec 5) : Statement (.lwsp uimm reg) :=
  statement_of (n := "LWSP") (m := 0xFFFFE003#32) (p := 0x00004002#32)
    rfl (by decide) (fun _ => encStack_masked _ _ _)

end Sys2Proof.Laws.EncodingRow
end

