-- ==== Sys2Proof/Tests/Slice0.lean ====
section
/-! SUPPORT. Tests of the model and witnesses of the obligations' hypotheses. Expected results come from the spec:
the formats of spec/30_encoding.md for the decode tests, spec/95_test_vectors.md part 2 for the one-step tests. -/

namespace Sys2Proof.Tests

open Sys2Proof.Machine Sys2Proof.Config

/-! ## Well-formedness: an ill-formed term for each check -/

/-- R93, R95: an odd offset is no branch or jump offset. -/
theorem test_odd_offsets_are_ill_formed :
    [Instr.jal 1#5 7#21, .beq 5#5 6#5 9#13, .bne 5#5 6#5 9#13, .blt 5#5 6#5 9#13, .bge 5#5 6#5 9#13,
      .bltu 5#5 6#5 9#13, .bgeu 5#5 6#5 9#13].all (fun i => !i.wellFormed) = true := by decide

/-- R180: a shift amount with bit 5 set is no shift amount. -/
theorem test_long_shifts_are_ill_formed :
    [Instr.slli 5#5 6#5 32#6, .srli 5#5 6#5 33#6, .srai 5#5 6#5 63#6].all (fun i => !i.wellFormed) = true := by decide

/-- The greatest even offset and the greatest shift amount are well-formed. -/
theorem test_boundary_terms_are_well_formed :
    [Instr.jal 1#5 0xFFFFE#21, .beq 5#5 6#5 0xFFE#13, .srai 5#5 6#5 31#6].all Instr.wellFormed = true := by decide

/-! ## Decoding: one word for each instruction, its bits written out field by field from its format -/

theorem test_decode_lui : decode 0b10110011101001011101_01101_0110111#32 = .ok (.lui 13#5 0xb3a5d#20) := by decide
theorem test_decode_auipc : decode 0b10110011101001011101_01101_0010111#32 = .ok (.auipc 13#5 0xb3a5d#20) := by decide
theorem test_decode_jal : decode 0b1_1100101101_0_10110010_01101_1101111#32 = .ok (.jal 13#5 0x1b265a#21) := by decide
theorem test_decode_jalr :
    decode 0b101100111010_10110_000_01101_1100111#32 = .ok (.jalr 13#5 22#5 0xb3a#12) := by decide
theorem test_decode_beq :
    decode 0b1_110100_11001_10110_000_0110_0_1100011#32 = .ok (.beq 22#5 25#5 0x168c#13) := by decide
theorem test_decode_bne :
    decode 0b1_110100_11001_10110_001_0110_0_1100011#32 = .ok (.bne 22#5 25#5 0x168c#13) := by decide
theorem test_decode_blt :
    decode 0b1_110100_11001_10110_100_0110_0_1100011#32 = .ok (.blt 22#5 25#5 0x168c#13) := by decide
theorem test_decode_bge :
    decode 0b1_110100_11001_10110_101_0110_0_1100011#32 = .ok (.bge 22#5 25#5 0x168c#13) := by decide
theorem test_decode_bltu :
    decode 0b1_110100_11001_10110_110_0110_0_1100011#32 = .ok (.bltu 22#5 25#5 0x168c#13) := by decide
theorem test_decode_bgeu :
    decode 0b1_110100_11001_10110_111_0110_0_1100011#32 = .ok (.bgeu 22#5 25#5 0x168c#13) := by decide
theorem test_decode_lb : decode 0b101100111010_10110_000_01101_0000011#32 = .ok (.lb 13#5 22#5 0xb3a#12) := by decide
theorem test_decode_lh : decode 0b101100111010_10110_001_01101_0000011#32 = .ok (.lh 13#5 22#5 0xb3a#12) := by decide
theorem test_decode_lw : decode 0b101100111010_10110_010_01101_0000011#32 = .ok (.lw 13#5 22#5 0xb3a#12) := by decide
theorem test_decode_lbu :
    decode 0b101100111010_10110_100_01101_0000011#32 = .ok (.lbu 13#5 22#5 0xb3a#12) := by decide
theorem test_decode_lhu :
    decode 0b101100111010_10110_101_01101_0000011#32 = .ok (.lhu 13#5 22#5 0xb3a#12) := by decide
theorem test_decode_sb : decode 0b101100111010_10110_000_01101_0100011#32 = .ok (.sb 22#5 0xb3a#12 13#5) := by decide
theorem test_decode_sh : decode 0b101100111010_10110_001_01101_0100011#32 = .ok (.sh 22#5 0xb3a#12 13#5) := by decide
theorem test_decode_sw : decode 0b101100111010_10110_010_01101_0100011#32 = .ok (.sw 22#5 0xb3a#12 13#5) := by decide
theorem test_decode_addi :
    decode 0b101100111010_10110_000_01101_0010011#32 = .ok (.addi 13#5 22#5 0xb3a#12) := by decide
theorem test_decode_slti :
    decode 0b101100111010_10110_010_01101_0010011#32 = .ok (.slti 13#5 22#5 0xb3a#12) := by decide
theorem test_decode_sltiu :
    decode 0b101100111010_10110_011_01101_0010011#32 = .ok (.sltiu 13#5 22#5 0xb3a#12) := by decide
theorem test_decode_xori :
    decode 0b101100111010_10110_100_01101_0010011#32 = .ok (.xori 13#5 22#5 0xb3a#12) := by decide
theorem test_decode_ori :
    decode 0b101100111010_10110_110_01101_0010011#32 = .ok (.ori 13#5 22#5 0xb3a#12) := by decide
theorem test_decode_andi :
    decode 0b101100111010_10110_111_01101_0010011#32 = .ok (.andi 13#5 22#5 0xb3a#12) := by decide
theorem test_decode_slli : decode 0b000000_010110_10110_001_01101_0010011#32 = .ok (.slli 13#5 22#5 22#6) := by decide
theorem test_decode_srli : decode 0b000000_010110_10110_101_01101_0010011#32 = .ok (.srli 13#5 22#5 22#6) := by decide
theorem test_decode_srai : decode 0b010000_010110_10110_101_01101_0010011#32 = .ok (.srai 13#5 22#5 22#6) := by decide
theorem test_decode_add : decode 0b0000000_11001_10110_000_01101_0110011#32 = .ok (.add 13#5 22#5 25#5) := by decide
theorem test_decode_sub : decode 0b0100000_11001_10110_000_01101_0110011#32 = .ok (.sub 13#5 22#5 25#5) := by decide
theorem test_decode_sll : decode 0b0000000_11001_10110_001_01101_0110011#32 = .ok (.sll 13#5 22#5 25#5) := by decide
theorem test_decode_slt : decode 0b0000000_11001_10110_010_01101_0110011#32 = .ok (.slt 13#5 22#5 25#5) := by decide
theorem test_decode_sltu : decode 0b0000000_11001_10110_011_01101_0110011#32 = .ok (.sltu 13#5 22#5 25#5) := by decide
theorem test_decode_xor : decode 0b0000000_11001_10110_100_01101_0110011#32 = .ok (.xor 13#5 22#5 25#5) := by decide
theorem test_decode_srl : decode 0b0000000_11001_10110_101_01101_0110011#32 = .ok (.srl 13#5 22#5 25#5) := by decide
theorem test_decode_sra : decode 0b0100000_11001_10110_101_01101_0110011#32 = .ok (.sra 13#5 22#5 25#5) := by decide
theorem test_decode_or : decode 0b0000000_11001_10110_110_01101_0110011#32 = .ok (.or 13#5 22#5 25#5) := by decide
theorem test_decode_and : decode 0b0000000_11001_10110_111_01101_0110011#32 = .ok (.and 13#5 22#5 25#5) := by decide
theorem test_decode_csrrw :
    decode 0b101100111010_10110_001_01101_1110011#32 = .ok (.csrrw 13#5 0xb3a#12 22#5) := by decide
theorem test_decode_csrrs :
    decode 0b101100111010_10110_010_01101_1110011#32 = .ok (.csrrs 13#5 0xb3a#12 22#5) := by decide
theorem test_decode_csrrc :
    decode 0b101100111010_10110_011_01101_1110011#32 = .ok (.csrrc 13#5 0xb3a#12 22#5) := by decide
theorem test_decode_csrrwi :
    decode 0b101100111010_10110_101_01101_1110011#32 = .ok (.csrrwi 13#5 0xb3a#12 22#5) := by decide
theorem test_decode_csrrsi :
    decode 0b101100111010_10110_110_01101_1110011#32 = .ok (.csrrsi 13#5 0xb3a#12 22#5) := by decide
theorem test_decode_csrrci :
    decode 0b101100111010_10110_111_01101_1110011#32 = .ok (.csrrci 13#5 0xb3a#12 22#5) := by decide
theorem test_decode_mul : decode 0b0000001_11001_10110_000_01101_0110011#32 = .ok (.mul 13#5 22#5 25#5) := by decide
theorem test_decode_swsp : decode 0b0000000000000000_110_101100_11010_10#32 = .ok (.swsp 44#6 26#5) := by decide
theorem test_decode_lwsp : decode 0b0000000000000000_010_101100_11010_10#32 = .ok (.lwsp 44#6 26#5) := by decide

/-- R103: one word of each class that is no instruction, with the class the decoder names. -/
theorem test_illegal_classes :
    [decode 0x00000001#32, decode 0x0001C02A#32, decode 0x0000852A#32, decode 0x0FF0000F#32, decode 0x004290E7#32,
      decode 0x0062A863#32, decode 0x00453283#32, decode 0x00C53623#32, decode 0x34034073#32, decode 0x02031293#32,
      decode 0x42035293#32, decode 0x407312B3#32, decode 0x807302B3#32, decode 0x427302B3#32, decode 0x027312B3#32,
      decode 0x027342B3#32] =
    [.error .quadrant, .error .stackUpper, .error .stackFunct3, .error .opcode, .error .funct3,
      .error .funct3, .error .funct3, .error .funct3, .error .funct3, .error .funct7,
      .error .funct7, .error .funct7, .error .funct7, .error .funct7, .error .funct7,
      .error .funct7] := by decide

/-- Section 2.6 of the vectors: the manual's printed code of ANDI is SLTIU's (R102). -/
theorem test_printed_andi_is_sltiu : decode 0x0FF33293#32 = .ok (.sltiu 5#5 6#5 255#12) := by decide

/-- The decoder is total on bytes: anything but four of them is no instruction (R80). -/
theorem test_decode_bytes_length :
    decodeBytes .little [0x13#8, 0x00#8] = .error .length ∧
    decodeBytes .little [0x13#8, 0x00#8, 0x00#8, 0x00#8] = .ok (.addi 0#5 0#5 0#12) ∧
    decodeBytes .big [0x00#8, 0x00#8, 0x00#8, 0x13#8] = .ok (.addi 0#5 0#5 0#12) := by decide

/-- The host's table word of SWSP: sixteen bits are enough, the upper half is 0. -/
theorem test_decode_table_word :
    decodeTableWord 32 0x0000C02A = some (.swsp 0#6 10#5) ∧ decodeTableWord 16 0xC02A = some (.swsp 0#6 10#5) := by
  decide

/-! ## One step on a small state -/

/-- The vectors' state: the pc is 0x100, every register is 0 but those listed. -/
def before (regs : List (Reg × Word)) : State :=
  regs.foldl (fun s p => s.setX p.1 p.2) (State.reset.setPc 0x100#32)

/-- The vectors' memory of sections 2.4 and 2.5: two words at 0x1000. -/
def State.withWords (s : State) : State :=
  (s.putWord 0x1000#32 0x8480F2F1#32).putWord 0x1004#32 0x12345678#32

/-- One step of the word placed at the pc. -/
def run (s : State) (w : Nat) : Result := step (s.withFetchWord 32 w)

/-- One register and the pc after one step. -/
def after (s : State) (w : Nat) (r : Reg) : Option (Word × Word) := (nextOf (run s w)).map fun t => (t.x r, t.pc)

/-- A word of memory, one register and the pc after one step. -/
def afterAt (s : State) (w : Nat) (a : Word) (r : Reg) : Option (Word × Word × Word) :=
  (nextOf (run s w)).map fun t => (t.wordAt a, t.x r, t.pc)

/-- CSR 0x340 as the vectors suppose it, a plain register. -/
def csr340 (v : Word) : List CsrEntry := [⟨⟨0x340#12, 0#32, BitVec.allOnes 32, []⟩, v⟩]

/-- One CSR, one register and the pc after one step. -/
def afterCsr (s : State) (w : Nat) (r : Reg) : Option (Option Word × Word × Word) :=
  (nextOf (run s w)).map fun t => (t.csr 0x340#12, t.x r, t.pc)

theorem test_lui : after (before []) 0xabcde2b7 5#5 = some (0xabcde000#32, 0x104#32) := by decide
theorem test_lui_x0 : after (before []) 0xfffff037 0#5 = some (0x0#32, 0x104#32) := by decide
theorem test_auipc : after (before []) 0x00001297 5#5 = some (0x1100#32, 0x104#32) := by decide
theorem test_auipc_wraps : after (before []) 0xfffff297 5#5 = some (0xfffff100#32, 0x104#32) := by decide
theorem test_jal_links : after (before []) 0x008000ef 1#5 = some (0x104#32, 0x108#32) := by decide
theorem test_jal_misaligned :
    faultOf (run (before []) 0x002000ef) = some (.misalignedFetch 0x102#32 0x100#32) := by decide
theorem test_jalr_same_register :
    after (before [(5#5, 0x200#32)]) 0x000282e7 5#5 = some (0x104#32, 0x200#32) := by decide
theorem test_jalr_keeps_bit_0 :
    faultOf (run (before [(5#5, 0x200#32)]) 0x001280e7) = some (.misalignedFetch 0x201#32 0x100#32) := by decide
theorem test_beq_taken :
    after (before [(5#5, 0x7#32), (6#5, 0x7#32)]) 0x00628863 0#5 = some (0x0#32, 0x110#32) := by decide
theorem test_beq_not_taken_misaligned :
    after (before [(5#5, 0x1#32), (6#5, 0x2#32)]) 0x00628163 0#5 = some (0x0#32, 0x104#32) := by decide
theorem test_bne_taken_backwards :
    after (before [(5#5, 0x7#32), (6#5, 0x8#32)]) 0xfe629ce3 0#5 = some (0x0#32, 0xf8#32) := by decide
theorem test_blt_overflow :
    after (before [(5#5, 0x80000000#32), (6#5, 0x1#32)]) 0x0062c863 0#5 = some (0x0#32, 0x110#32) := by decide
theorem test_bge_signed :
    after (before [(5#5, 0xffffffff#32), (6#5, 0x1#32)]) 0x0062d863 0#5 = some (0x0#32, 0x104#32) := by decide
theorem test_bge_equal :
    after (before [(5#5, 0x5#32), (6#5, 0x5#32)]) 0x0062d863 0#5 = some (0x0#32, 0x110#32) := by decide
theorem test_bltu_unsigned :
    after (before [(5#5, 0xffffffff#32), (6#5, 0x1#32)]) 0x0062e863 0#5 = some (0x0#32, 0x104#32) := by decide
theorem test_bgeu_unsigned :
    after (before [(5#5, 0xffffffff#32), (6#5, 0x1#32)]) 0x0062f863 0#5 = some (0x0#32, 0x110#32) := by decide
theorem test_branch_misaligned :
    faultOf (run (before []) 0x00000163) = some (.misalignedFetch 0x102#32 0x100#32) := by decide
theorem test_lb_sign :
    after (State.withWords (before [(10#5, 0x1000#32)])) 0x00350283 5#5 = some (0xffffff84#32, 0x104#32) := by decide
theorem test_lbu_zero :
    after (State.withWords (before [(10#5, 0x1000#32)])) 0x00054283 5#5 = some (0xf1#32, 0x104#32) := by decide
theorem test_lh_sign :
    after (State.withWords (before [(10#5, 0x1000#32)])) 0x00251283 5#5 = some (0xffff8480#32, 0x104#32) := by decide
theorem test_lhu_zero :
    after (State.withWords (before [(10#5, 0x1000#32)])) 0x00255283 5#5 = some (0x8480#32, 0x104#32) := by decide
theorem test_lw_negative_offset :
    after (State.withWords (before [(10#5, 0x1008#32)])) 0xffc52283 5#5 = some (0x12345678#32, 0x104#32) := by decide
theorem test_lw_base_is_destination :
    after (State.withWords (before [(10#5, 0x1000#32)])) 0x00452503 10#5 = some (0x12345678#32, 0x104#32) := by decide
theorem test_lh_misaligned :
    faultOf (run (State.withWords (before [(10#5, 0x1000#32)])) 0x00151283) = some (.misalignedAccess 0x1001#32 0x100#32) :=
  by decide
theorem test_sb_keeps_neighbours :
    afterAt (State.withWords (before [(10#5, 0x1000#32), (7#5, 0x12345680#32)])) 0x007503a3 0x1004#32 10#5 =
    some (0x80345678#32, 0x1000#32, 0x104#32) := by decide
theorem test_sh_keeps_neighbours :
    afterAt (State.withWords (before [(10#5, 0x1000#32), (6#5, 0xabcd8078#32)])) 0x00651323 0x1004#32 10#5 =
    some (0x80785678#32, 0x1000#32, 0x104#32) := by decide
theorem test_sw_negative_offset :
    afterAt (State.withWords (before [(10#5, 0x1020#32), (12#5, 0x12345678#32)])) 0xfec52623 0x100c#32 10#5 =
    some (0x12345678#32, 0x1020#32, 0x104#32) := by decide
theorem test_sh_misaligned :
    faultOf (run (State.withWords (before [(10#5, 0x1000#32)])) 0x005512a3) = some (.misalignedAccess 0x1005#32 0x100#32) :=
  by decide
theorem test_addi_wraps :
    after (before [(6#5, 0x7fffffff#32)]) 0x7ff30293 5#5 = some (0x800007fe#32, 0x104#32) := by decide
theorem test_addi_negative : after (before [(6#5, 0x800#32)]) 0x80030293 5#5 = some (0x0#32, 0x104#32) := by decide
theorem test_slti_signed : after (before [(6#5, 0xfffffffe#32)]) 0xfff32293 5#5 = some (0x1#32, 0x104#32) := by decide
theorem test_slti_not_less : after (before [(6#5, 0x0#32)]) 0xfff32293 5#5 = some (0x0#32, 0x104#32) := by decide
theorem test_sltiu_unsigned : after (before [(6#5, 0x5#32)]) 0xfff33293 5#5 = some (0x1#32, 0x104#32) := by decide
theorem test_sltiu_equal : after (before [(6#5, 0xffffffff#32)]) 0xfff33293 5#5 = some (0x0#32, 0x104#32) := by decide
theorem test_xori : after (before [(6#5, 0xf0f0f0f#32)]) 0xfff34293 5#5 = some (0xf0f0f0f0#32, 0x104#32) := by decide
theorem test_ori_sign_extends :
    after (before [(6#5, 0x12#32)]) 0xf0036293 5#5 = some (0xffffff12#32, 0x104#32) := by decide
theorem test_andi_sign_extends :
    after (before [(6#5, 0x12345678#32)]) 0xff037293 5#5 = some (0x12345670#32, 0x104#32) := by decide
theorem test_slli : after (before [(6#5, 0x80000001#32)]) 0x00431293 5#5 = some (0x10#32, 0x104#32) := by decide
theorem test_slli_31 : after (before [(6#5, 0x3#32)]) 0x01f31293 5#5 = some (0x80000000#32, 0x104#32) := by decide
theorem test_srli : after (before [(6#5, 0xf0000000#32)]) 0x00435293 5#5 = some (0xf000000#32, 0x104#32) := by decide
theorem test_srai : after (before [(6#5, 0xf0000000#32)]) 0x40435293 5#5 = some (0xff000000#32, 0x104#32) := by decide
theorem test_srai_31 :
    after (before [(6#5, 0x80000000#32)]) 0x41f35293 5#5 = some (0xffffffff#32, 0x104#32) := by decide
theorem test_srli_bit_25 :
    faultOf (run (before []) 0x02435293) = some (.illegalInstruction 0x02435293#32 0x100#32) := by decide
theorem test_add_wraps :
    after (before [(6#5, 0xffffffff#32), (7#5, 0xffffffff#32)]) 0x007302b3 5#5 = some (0xfffffffe#32, 0x104#32) :=
  by decide
theorem test_add_source_is_destination :
    after (before [(5#5, 0x40000000#32)]) 0x005282b3 5#5 = some (0x80000000#32, 0x104#32) := by decide
theorem test_sub_borrows :
    after (before [(6#5, 0x0#32), (7#5, 0x1#32)]) 0x407302b3 5#5 = some (0xffffffff#32, 0x104#32) := by decide
theorem test_sll_amount_36 :
    after (before [(6#5, 0x80000001#32), (7#5, 0x24#32)]) 0x007312b3 5#5 = some (0x10#32, 0x104#32) := by decide
theorem test_slt :
    after (before [(6#5, 0x80000000#32), (7#5, 0x7fffffff#32)]) 0x007322b3 5#5 = some (0x1#32, 0x104#32) := by decide
theorem test_sltu :
    after (before [(6#5, 0x80000000#32), (7#5, 0x7fffffff#32)]) 0x007332b3 5#5 = some (0x0#32, 0x104#32) := by decide
theorem test_xor :
    after (before [(6#5, 0xff00ff00#32), (7#5, 0xff00ff0#32)]) 0x007342b3 5#5 = some (0xf0f0f0f0#32, 0x104#32) :=
  by decide
theorem test_srl_amount_low_bits :
    after (before [(6#5, 0x80000000#32), (7#5, 0xffffffff#32)]) 0x007352b3 5#5 = some (0x1#32, 0x104#32) := by decide
theorem test_sra :
    after (before [(6#5, 0xf0000000#32), (7#5, 0x4#32)]) 0x407352b3 5#5 = some (0xff000000#32, 0x104#32) := by decide
theorem test_or :
    after (before [(6#5, 0xff00ff00#32), (7#5, 0xff00ff0#32)]) 0x007362b3 5#5 = some (0xfff0fff0#32, 0x104#32) :=
  by decide
theorem test_and :
    after (before [(6#5, 0xff00ff00#32), (7#5, 0xff00ff0#32)]) 0x007372b3 5#5 = some (0xf000f00#32, 0x104#32) :=
  by decide
theorem test_mul_negative :
    after (before [(6#5, 0x7#32), (7#5, 0xfffffffd#32)]) 0x027302b3 5#5 = some (0xffffffeb#32, 0x104#32) := by decide
theorem test_mul_low_word :
    after (before [(6#5, 0x12345678#32), (7#5, 0x9abcdef0#32)]) 0x027302b3 5#5 = some (0x242d2080#32, 0x104#32) :=
  by decide
theorem test_csrrw : afterCsr ((before [(6#5, 0xaaaa5555#32)]).withCsrs (csr340 0x100#32)) 0x340312f3 5#5 =
    some (some 0xaaaa5555#32, 0x100#32, 0x104#32) := by decide
theorem test_csrrw_x0 : afterCsr ((before [(6#5, 0xaaaa5555#32)]).withCsrs (csr340 0x100#32)) 0x34031073 0#5 =
    some (some 0xaaaa5555#32, 0x0#32, 0x104#32) := by decide
theorem test_csrrs : afterCsr ((before [(6#5, 0xf#32)]).withCsrs (csr340 0x100#32)) 0x340322f3 5#5 =
    some (some 0x10f#32, 0x100#32, 0x104#32) := by decide
theorem test_csrrs_same_register : afterCsr ((before [(5#5, 0xf#32)]).withCsrs (csr340 0x100#32)) 0x3402a2f3 5#5 =
    some (some 0x10f#32, 0x100#32, 0x104#32) := by decide
theorem test_csrrc : afterCsr ((before [(6#5, 0x100#32)]).withCsrs (csr340 0x100#32)) 0x340332f3 5#5 =
    some (some 0x0#32, 0x100#32, 0x104#32) := by decide
theorem test_csrrwi : afterCsr ((before []).withCsrs (csr340 0x100#32)) 0x340ad2f3 5#5 =
    some (some 0x15#32, 0x100#32, 0x104#32) := by decide
theorem test_csrrsi : afterCsr ((before []).withCsrs (csr340 0x100#32)) 0x340ae2f3 5#5 =
    some (some 0x115#32, 0x100#32, 0x104#32) := by decide
theorem test_csrrci : afterCsr ((before []).withCsrs (csr340 0x1ff#32)) 0x340af2f3 5#5 =
    some (some 0x1ea#32, 0x1ff#32, 0x104#32) := by decide
theorem test_csr_missing : faultOf (run ((before []).withCsrs (csr340 0#32)) 0x341312F3) =
    some (.unimplementedCSR 0x341#12 0x100#32) := by decide

/-- The vectors' memory of section 2.10. -/
def State.withStack (s : State) : State := (s.putWord 0x400#32 7#32).putWord 0x408#32 0xCAFEF00D#32

theorem test_swsp_greatest_offset :
    afterAt (State.withStack (before [(2#5, 0x400#32), (8#5, 0x11223344#32)])) 0x0000dfa2 0x4fc#32 2#5 =
    some (0x11223344#32, 0x400#32, 0x104#32) := by decide
theorem test_lwsp : afterAt (State.withStack (before [(2#5, 0x400#32)])) 0x00004426 0x408#32 9#5 =
    some (0xcafef00d#32, 0xcafef00d#32, 0x104#32) := by decide
theorem test_lwsp_into_sp : afterAt (State.withStack (before [(2#5, 0x400#32)])) 0x0000400a 0x400#32 2#5 =
    some (0x7#32, 0x7#32, 0x104#32) := by decide

/-- Section 2.11 of the vectors: the words of instructions that RISC-V has and this processor has not. -/
theorem test_absent_instructions_fault :
    [0x00000073, 0x00100073, 0x30200073, 0x10500073, 0x0FF0000F, 0x00000000, 0xFFFFFFFF, 0x00000001].all (fun w =>
      faultOf (run (before []) w) == some (.illegalInstruction (BitVec.ofNat 32 w) 0x100#32)) = true := by decide

/-- RAM of 64 KiB and two devices above it, as a MEM_MAP: reads of the first have side effects, those of the second
have none. The second begins inside a word of the first, so that one word can touch both. -/
def ram64k : List Region :=
  [⟨0, 0x10000, .memory⟩, ⟨0x20000, 0x1002, .device true⟩, ⟨0x21002, 0x1000, .device false⟩]

/-- The state under another MEM_MAP. -/
def State.withMap (m : List Region) (s : State) : State := { s with cfg := { s.cfg with memMap := m } }

/-- The state under another SP_AUTO_ADJUST. -/
def State.withAdjust (p : SpAutoAdjust) (s : State) : State := { s with cfg := { s.cfg with spAdjust := p } }

/-- The state under another POP_RD_FIELD. -/
def State.withPopRd (p : PopRdField) (s : State) : State := { s with cfg := { s.cfg with popRd := p } }

/-- The state under another BYTE_ORDER. -/
def State.withOrder (o : ByteOrder) (s : State) : State := { s with cfg := { s.cfg with byteOrder := o } }

/-- Section 2.12 of the vectors: a load outside MEM_MAP, and a fetch that falls off the end of it. -/
theorem test_access_faults :
    faultOf (run (State.withMap ram64k (before [(10#5, 0x80000000#32)])) 0x00052283) =
      some (.accessFault 0x80000000#32 0x100#32) ∧
    faultOf (step (State.withMap ram64k ((before []).setPc 0x10000#32))) =
      some (.accessFault 0x10000#32 0x10000#32) := by decide

/-- R53, R58 and notes/assumptions/11.md: SH to a device stores its bytes and the devices see it. -/
theorem test_store_to_a_device :
    (nextOf (run (State.withMap ram64k (before [(10#5, 0x20000#32), (6#5, 0xABCD8078#32)])) 0x00651323)).map
      (fun t => (t.io, t.halfAt 0x20006#32, t.pc)) =
    some ([.write 0x20006#32 .half 0x8078#32], 0x8078#16, 0x104#32) := by decide

/-- R58: the devices see a read that has side effects, and no other. -/
theorem test_load_from_a_device :
    (nextOf (run (State.withMap ram64k (before [(10#5, 0x20000#32)])) 0x00052283)).map (fun t => (t.io, t.pc)) =
      some ([.read 0x20000#32 .word], 0x104#32) ∧
    (nextOf (run (State.withMap ram64k (before [(10#5, 0x21004#32)])) 0x00052283)).map (fun t => (t.io, t.pc)) =
      some ([], 0x104#32) := by decide

/-- CSR 0x340 cleared by a read, as a row of CSR_MAP may say, and CSR 0x341, whose bit 0 a write of 0x340
complements. -/
def csrEffectful (v : Word) : List CsrEntry :=
  [⟨⟨0x340#12, 0#32, BitVec.allOnes 32, [⟨.read, 0x340#12, .update 0#32 0#32⟩,
    ⟨.write, 0x341#12, .update (BitVec.allOnes 32) 1#32⟩]⟩, v⟩, ⟨⟨0x341#12, 0#32, 0#32, []⟩, 6#32⟩]

/-- R200 and notes/assumptions/5.md: the read gives the old value and clears the CSR, the write sets it from the old
value, and its side effect follows. -/
theorem test_csr_side_effects :
    (nextOf (run ((before [(6#5, 0xF#32)]).withCsrs (csrEffectful 0x100#32)) 0x340322F3)).map
      (fun t => (t.x 5#5, t.csr 0x340#12, t.csr 0x341#12, t.pc)) =
    some (0x100#32, some 0x10F#32, some 7#32, 0x104#32) := by decide

/-- Section 2.5 of the vectors: outside the safe subset the two readings of STORE_RS2_FIELD differ (R160). -/
theorem test_sw_two_readings :
    afterAt (State.withWords (before [(10#5, 0xFF8#32), (12#5, 0x2468#32)])) 0x00C52023 0x1004#32 10#5 =
      some (0x2468#32, 0xFF8#32, 0x104#32) ∧
    afterAt ((State.withWords (before [(10#5, 0xFF8#32), (12#5, 0x2468#32)])).withStoreRs2 .ir11to7) 0x00C52023
      0x1004#32 10#5 = some (0#32, 0xFF8#32, 0x104#32) := by decide

/-- R223: PUSH with the stack pointer decremented first. -/
theorem test_push_predecrement :
    afterAt (State.withAdjust .pushPredecPopPostinc (State.withStack (before [(2#5, 0x400#32), (10#5, 9#32)])))
      0x0000C02A 0x3FC#32 2#5 = some (9#32, 0x3FC#32, 0x104#32) := by decide

/-- R222: under POP_RD_FIELD = IR[11:7] the word of `pop x11` has rd = 0, as the rule says. -/
theorem test_pop_alternative_destination :
    after (State.withPopRd .ir11to7 (State.withStack (before [(2#5, 0x400#32)]))) 0x0000402E 11#5 =
      some (0#32, 0x104#32) := by decide

/-- The interface: from reset with an ADDI placed, the next step runs it. -/
theorem test_first_step_after_reset :
    (nextOf (step (State.reset.withFetchWord 32 0x00500293))).map (fun t => (t.x 5#5, t.pc)) = some (5#32, 4#32) := by
  decide

/-- From reset with nothing loaded, the first fetch reads the word 0, which is no instruction. -/
theorem test_empty_memory_is_illegal : faultOf (step State.reset) = some (.illegalInstruction 0#32 0#32) := by decide

/-! ## Witnesses: the hypotheses of each obligation can hold, clause by clause, at the edges of their ranges -/

/-- The vectors' state with one word placed at the pc. -/
def placed (w : Nat) : State := (before []).withFetchWord 32 w

/-- The vectors' state under the map with a device. -/
def mapped (regs : List (Reg × Word)) : State := State.withMap ram64k (before regs)

theorem witness_StepRunsDecodedInstruction :
    (placed 0x00500293).accessible (placed 0x00500293).pc .word = true ∧
    decode ((placed 0x00500293).wordAt (placed 0x00500293).pc) = .ok (.addi 5#5 0#5 5#12) := by decide

theorem witness_UnlistedWordRaisesIllegalInstruction :
    (placed 0x0001C02A).accessible (placed 0x0001C02A).pc .word = true ∧
    ∀ row ∈ opcodeMap, (placed 0x0001C02A).wordAt (placed 0x0001C02A).pc &&& row.mask ≠ row.pattern := by decide

theorem witness_FetchStopsOutsideTheMap :
    ((mapped []).setPc 0x102#32).pc.toNat % 4 ≠ 0 ∧ ((mapped []).setPc 0x10000#32).pc.toNat % 4 = 0 ∧
    ((mapped []).setPc 0x10000#32).backed 0x10000#32 .word = false := by decide

theorem witness_DecodeOfEncodeIsTheInstruction :
    (Instr.beq 31#5 0#5 0x1FFE#13).wellFormed = true ∧ (Instr.srai 31#5 0#5 31#6).wellFormed = true ∧
    (Instr.jal 0#5 0x100000#21).wellFormed = true := by decide

theorem witness_EncodeOfDecodeIsTheWord : decode 0xFEC52623#32 = .ok (.sw 10#5 0xFEC#12 12#5) := by decide

theorem witness_ShiftWithBit25RaisesIllegalInstruction :
    (placed 0x02031293).accessible (placed 0x02031293).pc .word = true ∧
    ((placed 0x02031293).wordAt 0x100#32).extractLsb' 0 7 = 0b0010011#7 ∧
    ((placed 0x02031293).wordAt 0x100#32).extractLsb' 12 3 = 0b001#3 ∧
    ((placed 0x42035293).wordAt 0x100#32).extractLsb' 12 3 = 0b101#3 ∧
    ((placed 0x02031293).wordAt 0x100#32).getLsbD 25 = true ∧
    ((placed 0x42035293).wordAt 0x100#32).getLsbD 25 = true := by decide

theorem witness_AbsentInstructionsDoNotDecode :
    (0x00000001#32).getLsbD 1 = false ∧ (0x0FF0000F#32).extractLsb' 0 7 = 0b0001111#7 := by decide

theorem witness_PlacedWordIsRunNext :
    (before []).accessible (before []).pc .word = true ∧ decodeTableWord 32 0x0000402E = some (.lwsp 0#6 11#5) := by
  decide

/-- Both jumps at an aligned target and at one that is off by 2 and by 1. -/
theorem witness_JumpResults :
    ((before []).pc + (0xFFFFC#21).signExtend 32).toNat % 4 = 0 ∧ ((before []).pc + (2#21).signExtend 32).toNat % 4 ≠ 0 ∧
    ((before [(5#5, 0x200#32)]).x 5#5 + (0xFFC#12).signExtend 32).toNat % 4 = 0 ∧
    ((before [(5#5, 0x200#32)]).x 5#5 + (1#12).signExtend 32).toNat % 4 ≠ 0 := by decide

/-- Each comparison holds somewhere and fails somewhere, at the ends of the signed and the unsigned range; the target
is aligned for one offset and not for another. -/
theorem witness_BranchResults :
    let s := before [(5#5, 0x80000000#32), (6#5, 0x7FFFFFFF#32)]
    s.x 5#5 = s.x 5#5 ∧ s.x 5#5 ≠ s.x 6#5 ∧ (s.x 5#5).toInt < (s.x 6#5).toInt ∧ ¬ (s.x 5#5).toInt ≥ (s.x 6#5).toInt ∧
    (s.x 6#5).toNat < (s.x 5#5).toNat ∧ ¬ (s.x 6#5).toNat ≥ (s.x 5#5).toNat ∧
    ¬ (s.x 5#5).toInt < (s.x 5#5).toInt ∧ (s.x 5#5).toInt ≥ (s.x 5#5).toInt ∧ ¬ (s.x 5#5).toNat < (s.x 5#5).toNat ∧
    (s.x 5#5).toNat ≥ (s.x 5#5).toNat ∧ (s.pc + (0x1000#13).signExtend 32).toNat % 4 = 0 ∧
    (s.pc + (2#13).signExtend 32).toNat % 4 ≠ 0 := by decide

/-- The last byte, halfword and word of the address space, and the first. -/
theorem witness_LoadResults :
    let s := before []
    0xFFFFFFFF#32 = s.x 0#5 + (0xFFF#12).signExtend 32 ∧ s.accessible 0xFFFFFFFF#32 .byte = true ∧
    0xFFFFFFFE#32 = s.x 0#5 + (0xFFE#12).signExtend 32 ∧ s.accessible 0xFFFFFFFE#32 .half = true ∧
    0xFFFFFFFC#32 = s.x 0#5 + (0xFFC#12).signExtend 32 ∧ s.accessible 0xFFFFFFFC#32 .word = true ∧
    s.accessible 0#32 .byte = true ∧ s.accessible 0#32 .half = true ∧ s.accessible 0#32 .word = true := by decide

/-- Every way a load of each width stops, at the first addresses past the memory; the stores' addresses are the same. -/
theorem witness_LoadResults_stops :
    let s := mapped [(10#5, 0x10000#32)]
    0x10000#32 = s.x 10#5 + (0#12).signExtend 32 ∧ 0x10001#32 = s.x 10#5 + (1#12).signExtend 32 ∧
    0x10002#32 = s.x 10#5 + (2#12).signExtend 32 ∧
    (0x10000#32).toNat % Width.byte.bytes = 0 ∧ s.backed 0x10000#32 .byte = false ∧
    (0x10001#32).toNat % Width.half.bytes ≠ 0 ∧ (0x10000#32).toNat % Width.half.bytes = 0 ∧
    s.backed 0x10000#32 .half = false ∧ (0x10002#32).toNat % Width.word.bytes ≠ 0 ∧
    (0x10000#32).toNat % Width.word.bytes = 0 ∧ s.backed 0x10000#32 .word = false := by decide

/-- A store at the last byte, halfword and word of the address space; the two readings of the data register. -/
theorem witness_StoreResults :
    let s := before [(31#5, 0x12345678#32)]
    0xFFFFFFFF#32 = s.x 0#5 + (0xFFF#12).signExtend 32 ∧ s.accessible 0xFFFFFFFF#32 .byte = true ∧
    0xFFFFFFFE#32 = s.x 0#5 + (0xFFE#12).signExtend 32 ∧ s.accessible 0xFFFFFFFE#32 .half = true ∧
    0xFFFFFFFC#32 = s.x 0#5 + (0xFFC#12).signExtend 32 ∧ s.accessible 0xFFFFFFFC#32 .word = true ∧
    0x12345678#32 = s.x (storeRs2 s.cfg 0xFFF#12 0#5) ∧
    0#32 = (s.withStoreRs2 .ir11to7).x (storeRs2 (s.withStoreRs2 .ir11to7).cfg 0xFFF#12 0#5) ∧
    s.cfg.storeRs2 = .ir24to20 ∧ (s.withStoreRs2 .ir11to7).cfg.storeRs2 = .ir11to7 ∧
    s.cfg.byteOrder = .little ∧ (State.withOrder .big s).cfg.byteOrder = .big := by decide

/-- Every way a store of each width stops. -/
theorem witness_StoreResults_stops :
    let s := mapped [(10#5, 0x10000#32)]
    0x10000#32 = s.x 10#5 + (0#12).signExtend 32 ∧ 0x10001#32 = s.x 10#5 + (1#12).signExtend 32 ∧
    0x10002#32 = s.x 10#5 + (2#12).signExtend 32 ∧ s.backed 0x10000#32 .byte = false ∧
    (0x10001#32).toNat % Width.half.bytes ≠ 0 ∧ s.backed 0x10000#32 .half = false ∧
    (0x10002#32).toNat % Width.word.bytes ≠ 0 ∧ s.backed 0x10000#32 .word = false := by decide

theorem witness_SafeStoreEncodingsDoNotDependOnTheReading : 12#5 = (0xFEC#12).extractLsb' 0 5 := by decide

theorem witness_ImmediateShiftResults : (0#6).toNat < 32 ∧ (31#6).toNat < 32 := by decide

theorem witness_InvalidShiftAmountStops : 32 ≤ (32#6).toNat ∧ 32 ≤ (63#6).toNat := by decide

theorem witness_RegisterShiftResults :
    31 = ((before [(7#5, 0xFFFFFFFF#32)]).x 7#5).toNat % 32 ∧ 0 = ((before [(7#5, 32#32)]).x 7#5).toNat % 32 := by decide

theorem witness_CsrRegisterFormResults :
    let s := (before []).withCsrs (csr340 0x100#32)
    ∃ e, csrFind s.csrs 0x340#12 = some e ∧ e.decl.plain := ⟨_, rfl, by decide⟩

theorem witness_CsrImmediateFormResults :
    let s := (before []).withCsrs (csr340 0xFFFFFFFF#32)
    ∃ e, csrFind s.csrs 0x340#12 = some e ∧ e.decl.plain := ⟨_, rfl, by decide⟩

/-- A CSR of which only bit 0 can be written. -/
def csrBit0 : List CsrEntry := [⟨⟨0x340#12, 0#32, 1#32, []⟩, 6#32⟩]

/-- Masks of all bits, of none and of one, and the value that a write through the last gives. -/
theorem witness_CsrPartialMaskResults :
    ∃ e, csrFind csrBit0 0x340#12 = some e ∧ e.decl.effects = [] ∧ e.written 0xFFFFFFF9#32 = 7#32 ∧
      ∃ f, csrFind (csrEffectful 0#32) 0x341#12 = some f ∧ f.decl.effects = [] ∧ f.written 0xFFFFFFFF#32 = 6#32 :=
  ⟨_, rfl, by decide, by decide, _, rfl, by decide, by decide⟩

/-- A row with effects of both triggers on itself and on another CSR, all stated; and one with an effect of unstated
result on itself, which leaves the other CSR's clause open. -/
theorem witness_CsrSideEffectResults :
    let s := (before [(6#5, 0xF#32)]).withCsrs (csrEffectful 0x100#32)
    let fs : List CsrEffect := [⟨.write, 0x340#12, .unstated⟩]
    (∃ e, csrFind s.csrs 0x340#12 = some e ∧ (∀ f ∈ e.decl.effects, f.change ≠ .unstated) ∧
      s.csr 0x340#12 = some 0x100#32 ∧ 0#32 = afterEffects .read 0x340#12 e.decl.effects 0x100#32 ∧
      s.csr 0x341#12 = some 6#32 ∧ 6#32 = afterEffects .read 0x341#12 e.decl.effects 6#32 ∧
      afterEffects .write 0x341#12 e.decl.effects 6#32 = 7#32) ∧
    ∀ f ∈ fs, f.target = 0x341#12 → f.change ≠ .unstated :=
  ⟨⟨_, rfl, by decide⟩, by decide⟩

/-- An effect of unstated result uses a free value. -/
theorem test_csr_unstated_effect :
    (nextOf (exec (.csrrw 5#5 0x340#12 6#5) ((before []).withCsrs
      [⟨⟨0x340#12, 0#32, BitVec.allOnes 32, [⟨.write, 0x340#12, .unstated⟩]⟩, 9#32⟩]))).map
      (fun t => (t.x 5#5, t.free, t.pc)) = some (9#32, 1, 0x104#32) := by decide

/-- An empty CSR_MAP, and one without the address. -/
theorem witness_UnimplementedCsrFaults :
    (∀ e ∈ State.reset.csrs, e.decl.addr ≠ 0x340#12) ∧
    (∀ e ∈ ((before []).withCsrs (csr340 0#32)).csrs, e.decl.addr ≠ 0x341#12) := by decide

theorem witness_CsrBitsOutsideTheMaskAreKept :
    let s := (before [(6#5, 0xFFFFFFF9#32)]).withCsrs csrBit0
    (∃ t, exec (.csrrw 5#5 0x340#12 6#5) s = .next t ∧ t.csr 0x340#12 = some 7#32) ∧
    (∀ c ∈ s.csrs, NotATarget 0x340#12 c.decl) ∧
    (∃ e, csrFind s.csrs 0x340#12 = some e ∧ e.decl.writable.getLsbD 1 = false ∧ e.decl.writable.getLsbD 31 = false) :=
  ⟨⟨_, rfl, by decide⟩, by decide, ⟨_, rfl, by decide⟩⟩

/-- PUSH with the stack pointer left alone: each outcome of its access, at the greatest displacement and at 0. -/
theorem witness_PushResult :
    let s := mapped [(2#5, 0xFF00#32)]
    let u := mapped [(2#5, 0x10000#32)]
    s.cfg.spAdjust = .unchanged ∧ 0xFFFC#32 = s.x 2#5 + pushUimm s.cfg 63#6 ∧ s.accessible 0xFFFC#32 .word = true ∧
    0xFF02#32 = (mapped [(2#5, 0xFF02#32)]).x 2#5 + pushUimm s.cfg 0#6 ∧ (0xFF02#32).toNat % Width.word.bytes ≠ 0 ∧
    0x10000#32 = u.x 2#5 + pushUimm u.cfg 0#6 ∧ u.backed 0x10000#32 .word = false := by decide

/-- POP with the stack pointer left alone, under both readings of its destination, and each outcome of its access. -/
theorem witness_PopResult :
    let s := mapped [(2#5, 0xFF00#32)]
    let r := State.withPopRd .ir11to7 s
    let u := mapped [(2#5, 0x10000#32)]
    s.cfg.spAdjust = .unchanged ∧ 0xFFFC#32 = s.x 2#5 + popUimm s.cfg 63#6 11#5 ∧ s.accessible 0xFFFC#32 .word = true ∧
    s.cfg.popRd = .ir6to2 ∧ r.cfg.popRd = .ir11to7 ∧ 0xFFE8#32 = r.x 2#5 + popUimm r.cfg 63#6 11#5 ∧
    r.accessible 0xFFE8#32 .word = true ∧
    0xFF02#32 = (mapped [(2#5, 0xFF02#32)]).x 2#5 + popUimm s.cfg 0#6 11#5 ∧
    (0xFF02#32).toNat % Width.word.bytes ≠ 0 ∧
    0x10000#32 = u.x 2#5 + popUimm u.cfg 0#6 11#5 ∧ u.backed 0x10000#32 .word = false := by decide

theorem witness_StackDisplacementLayouts :
    Params.default.spUimm = .cSwsp ∧ ({ Params.default with spUimm := .plain } : Params).spUimm = .plain ∧
    (pushUimm Params.default 63#6).toNat = 252 ∧ 0#6 = 0#6 := by decide

/-- Both readings that move the stack pointer, from the bottom of the address space, where the move wraps. -/
theorem witness_PushMovesTheStackPointer :
    let s := State.withAdjust .pushPredecPopPostinc (before [])
    let t := State.withAdjust .pushPostdecPopPreinc (before [])
    s.cfg.spAdjust ≠ .unchanged ∧ s.cfg.spAdjust = .pushPredecPopPostinc ∧
    0xFFFFFFFC#32 = (s.x 2#5 - 4#32) + pushUimm s.cfg 0#6 ∧ s.accessible 0xFFFFFFFC#32 .word = true ∧
    t.cfg.spAdjust ≠ .unchanged ∧ t.cfg.spAdjust ≠ .pushPredecPopPostinc ∧ 0#32 = t.x 2#5 + pushUimm t.cfg 0#6 ∧
    t.accessible 0#32 .word = true := by decide

/-- The stops of PUSH under both readings: one byte past an aligned address, and the first word past the memory. -/
theorem witness_PushMovesTheStackPointer_stops :
    let s := State.withAdjust .pushPredecPopPostinc (mapped [(2#5, 0x10004#32)])
    let t := State.withAdjust .pushPostdecPopPreinc (mapped [(2#5, 0x10001#32)])
    s.cfg.spAdjust ≠ .unchanged ∧ 0x10000#32 = (s.x 2#5 - 4#32) + pushUimm s.cfg 0#6 ∧
    (0x10000#32).toNat % Width.word.bytes = 0 ∧ s.backed 0x10000#32 .word = false ∧
    t.cfg.spAdjust ≠ .unchanged ∧ 0x10001#32 = t.x 2#5 + pushUimm t.cfg 0#6 ∧
    (0x10001#32).toNat % Width.word.bytes ≠ 0 := by decide

/-- Both readings, with the destination x[2], another register, and x[0]. -/
theorem witness_PopMovesTheStackPointer :
    let s := State.withAdjust .pushPredecPopPostinc (before [])
    let t := State.withAdjust .pushPostdecPopPreinc (before [])
    s.cfg.spAdjust ≠ .unchanged ∧ s.cfg.spAdjust = .pushPredecPopPostinc ∧ 0#32 = s.x 2#5 + popUimm s.cfg 0#6 2#5 ∧
    s.accessible 0#32 .word = true ∧ t.cfg.spAdjust ≠ .unchanged ∧ t.cfg.spAdjust ≠ .pushPredecPopPostinc ∧
    4#32 = (t.x 2#5 + 4#32) + popUimm t.cfg 0#6 2#5 ∧ t.accessible 4#32 .word = true ∧
    popRd s.cfg 0#6 2#5 = 2#5 ∧ popRd s.cfg 0#6 11#5 ≠ 2#5 ∧ popRd s.cfg 0#6 11#5 ≠ 0#5 ∧ popRd t.cfg 0#6 0#5 = 0#5 := by
  decide

/-- The stops of POP under both readings. -/
theorem witness_PopMovesTheStackPointer_stops :
    let s := State.withAdjust .pushPredecPopPostinc (mapped [(2#5, 0x10003#32)])
    let t := State.withAdjust .pushPostdecPopPreinc (mapped [(2#5, 0xFFFC#32)])
    s.cfg.spAdjust ≠ .unchanged ∧ 0x10003#32 = s.x 2#5 + popUimm s.cfg 0#6 11#5 ∧
    (0x10003#32).toNat % Width.word.bytes ≠ 0 ∧
    t.cfg.spAdjust ≠ .unchanged ∧ 0x10000#32 = (t.x 2#5 + 4#32) + popUimm t.cfg 0#6 11#5 ∧
    (0x10000#32).toNat % Width.word.bytes = 0 ∧ t.backed 0x10000#32 .word = false := by decide

/-- Each width at the first byte of a device whose reads have side effects, and at the first word of one whose reads
have none; a word that touches both has them; plain memory below. -/
theorem witness_DeviceLoadResults :
    let s := mapped [(2#5, 0x20000#32), (11#5, 0x20000#32)]
    0x20000#32 = s.x 11#5 + (0#12).signExtend 32 ∧ TouchesDevice 0x20000#32 .byte s ∧
    TouchesDevice 0x20000#32 .half s ∧ TouchesDevice 0x20000#32 .word s ∧ TouchesDevice (s.popAddr 0#6 11#5) .word s ∧
    s.cfg.spAdjust = .unchanged ∧ s.cfg.byteOrder = .little ∧ s.deviceAt 0xFFFF#32 = false ∧
    s.readEffects 0x20000#32 .word = true ∧ TouchesDevice 0x21004#32 .word s ∧
    s.readEffects 0x21004#32 .word = false ∧ s.readEffects 0x21000#32 .word = true := by decide

/-- The same under a SP_AUTO_ADJUST that moves the stack pointer. -/
theorem witness_DeviceLoadResults_moving :
    let s := State.withAdjust .pushPredecPopPostinc (mapped [(2#5, 0x21FFC#32)])
    TouchesDevice (s.popAddr 0#6 11#5) .word s := by decide

/-- Each width at the first byte of a device, and PUSH under both kinds of SP_AUTO_ADJUST. -/
theorem witness_DeviceStoreResults :
    let s := mapped [(2#5, 0x20000#32), (11#5, 0x20000#32), (12#5, 7#32)]
    let t := State.withAdjust .pushPredecPopPostinc (mapped [(2#5, 0x20004#32)])
    0x20000#32 = s.x 11#5 + (0#12).signExtend 32 ∧ 7#32 = s.x (storeRs2 s.cfg 12#12 0#5) ∧
    TouchesDevice 0x20000#32 .byte s ∧ TouchesDevice 0x20000#32 .half s ∧ TouchesDevice 0x20000#32 .word s ∧
    TouchesDevice (s.pushAddr 0#6) .word s ∧ s.cfg.spAdjust = .unchanged ∧
    TouchesDevice (t.pushAddr 0#6) .word t ∧ t.cfg.spAdjust ≠ .unchanged := by decide

theorem witness_DeviceFetchResults :
    TouchesDevice ((mapped []).setPc 0x20000#32).pc .word ((mapped []).setPc 0x20000#32) := by decide

/-- A run from a state that meets the invariant, with memory in use. -/
theorem witness_EveryStepKeepsTheInvariant :
    Inv (placed 0x0000C02A) ∧ ∃ t, step (placed 0x0000C02A) = .next t := ⟨by decide, ⟨_, rfl⟩⟩

theorem witness_ResetMeetsTheInvariant : (⟨[(0, 0x13#8), (4294967295, 1#8)]⟩ : Memory).wf = true := by decide

theorem witness_ResetState :
    ∃ s, s = State.resetWith { Params.default with resetRegs := Vector.replicate 32 7#32 }
      [⟨0x340#12, 5#32, BitVec.allOnes 32, []⟩] ⟨[(0, 0x13#8)]⟩ ∧ s.x 0#5 = 0#32 ∧ s.x 31#5 = 7#32 ∧
      s.csr 0x340#12 = some 5#32 ∧ 31#5 ≠ 0#5 := ⟨_, rfl, by decide⟩

theorem witness_NoInstructionWritesX0 : ∃ t, exec (.addi 0#5 0#5 1#12) (before []) = .next t := ⟨_, rfl⟩

/-- An instruction of each of the three clauses that gives a next state, and for a branch one taken and one not. -/
theorem witness_PcAdvancesOrIsAlignedTarget :
    (∃ t, exec (.addi 5#5 0#5 1#12) (before []) = .next t) ∧ (∃ t, exec (.jal 0#5 0#21) (before []) = .next t) ∧
    (∃ t, exec (.beq 0#5 0#5 0#13) (before []) = .next t) ∧ (∃ t, exec (.bne 0#5 0#5 0#13) (before []) = .next t) ∧
    (Instr.addi 5#5 0#5 1#12).kind ≠ .jump ∧ (Instr.addi 5#5 0#5 1#12).kind ≠ .branch ∧
    (Instr.jal 0#5 0#21).kind = .jump ∧ (Instr.beq 0#5 0#5 0#13).kind = .branch :=
  ⟨⟨_, rfl⟩, ⟨_, rfl⟩, ⟨_, rfl⟩, ⟨_, rfl⟩, by decide⟩

theorem witness_OnlyStoresChangeMemory :
    (∃ t, exec (.lw 5#5 0#5 0#12) (before []) = .next t) ∧ (Instr.lw 5#5 0#5 0#12).kind ≠ .store :=
  ⟨⟨_, rfl⟩, by decide⟩

theorem witness_OnlyCsrInstructionsTouchCsrs : (Instr.swsp 0#6 2#5).kind ≠ .csr := by decide

theorem witness_ParametersNeverChange : ∃ t, step (placed 0x00500293) = .next t := ⟨_, rfl⟩

theorem witness_ComputeInstructionsAlwaysComplete :
    (Instr.srai 5#5 6#5 31#6).kind = .compute ∧ (Instr.srai 5#5 6#5 31#6).wellFormed = true := by decide

/-- The default map is all memory. -/
theorem witness_NoRefusalAndNoAccessFaultInPlainMemory : AllMemory State.reset := fun a ha => by
  have h : 0 ≤ a ∧ a < 0 + 4294967296 := ⟨by omega, by omega⟩
  exact if_pos h

theorem witness_StoredWordIsFetched :
    let s := before [(10#5, 0x1020#32), (12#5, 0x00500293#32)]
    s.plainMemory (s.x 10#5 + (0xFEC#12).signExtend 32) .word = true ∧
    ∃ t, exec (.sw 10#5 0xFEC#12 12#5) s = .next t := ⟨by decide, _, rfl⟩

theorem witness_ReadGivesWhatWasWritten :
    let s := before []
    let b := State.withOrder .big s
    (s.plainMemory 0xFFFFFFFF#32 .byte = true ∧ ∃ t, s.writeByte 0xFFFFFFFF#32 1#8 = .ok t) ∧
    (b.plainMemory 0xFFFFFFFE#32 .half = true ∧ ∃ t, b.writeHalf 0xFFFFFFFE#32 0x1234#16 = .ok t) ∧
    (s.plainMemory 0xFFFFFFFC#32 .word = true ∧ ∃ t, s.writeWord 0xFFFFFFFC#32 0x12345678#32 = .ok t) :=
  ⟨⟨by decide, _, rfl⟩, ⟨by decide, _, rfl⟩, ⟨by decide, _, rfl⟩⟩

theorem witness_ByteOrderOfReads :
    (before []).cfg.byteOrder = .little ∧ (State.withOrder .big (before [])).cfg.byteOrder = .big := by decide

theorem witness_MixedWidthAccessesSeeTheSameBytes :
    (before []).cfg.byteOrder = .little ∧ (before []).plainMemory 0xFFFFFFFC#32 .word = true ∧
    ∃ t, (before []).writeWord 0xFFFFFFFC#32 0x12345678#32 = .ok t ∧ t.readHalf 0xFFFFFFFC#32 = .ok 0x5678#16 :=
  ⟨by decide, by decide, ⟨_, rfl, by decide⟩⟩

theorem witness_SelfJumpIsFinal :
    (placed 0x0000006F).accessible (placed 0x0000006F).pc .word = true ∧ (placed 0x0000006F).wordAt 0x100#32 = 0x0000006F#32 ∧
    (placed 0x00000063).accessible (placed 0x00000063).pc .word = true ∧ (placed 0x00000063).wordAt 0x100#32 = 0x00000063#32 := by
  decide

/-- A loop that does not advance: the state is final, and the step gives a next state. -/
theorem witness_FinalStatesStayFinal :
    Final (placed 0x0000006F) ∧ (placed 0x0000006F).plainMemory (placed 0x0000006F).pc .word = true ∧
    ∃ t, step (placed 0x0000006F) = .next t :=
  ⟨⟨_, rfl, by decide⟩, by decide, ⟨_, rfl⟩⟩

theorem witness_ShiftBlocksComputeTheShift : 0 < 32 ∧ 31 < 32 := by decide

theorem witness_ComparisonsFromStatusBits : 1#32 ≠ 0#32 ∧ 0xFFFFFFFF#32 ≠ 0#32 := by decide

theorem witness_DatapathRegistersAfterAnInstruction :
    let s := before [(6#5, 1#32), (7#5, 31#32)]
    (∃ t, exec (.addi 5#5 0#5 1#12) s = .next t) ∧ (Instr.addi 5#5 0#5 1#12).isShift = false ∧
    memAddr s (.addi 5#5 0#5 1#12) = none ∧ (∃ t, exec (.lw 5#5 0#5 0#12) s = .next t) ∧
    memAddr s (.lw 5#5 0#5 0#12) = some 0#32 ∧ 31 = (31#6).toNat % 32 ∧ 31 = (s.x 7#5).toNat % 32 ∧
    (∃ t, exec (.slli 5#5 6#5 31#6) s = .next t) ∧ (∃ t, exec (.srli 5#5 6#5 31#6) s = .next t) ∧
    (∃ t, exec (.srai 5#5 6#5 31#6) s = .next t) ∧ (∃ t, exec (.sll 5#5 6#5 7#5) s = .next t) ∧
    (∃ t, exec (.srl 5#5 6#5 7#5) s = .next t) ∧ (∃ t, exec (.sra 5#5 6#5 7#5) s = .next t) :=
  ⟨⟨_, rfl⟩, by decide, by decide, ⟨_, rfl⟩, by decide, by decide, by decide, ⟨_, rfl⟩, ⟨_, rfl⟩, ⟨_, rfl⟩, ⟨_, rfl⟩,
    ⟨_, rfl⟩, ⟨_, rfl⟩⟩

end Sys2Proof.Tests
end

section
/-! PROOFS. The statements on the scope (spec/00_scope.md): where the pc goes (O44), what no step changes (O47), and
the blocks that compute the shifts (O57). -/

namespace Sys2Proof.Machine

/-! ## Where an instruction leaves the pc -/

@[simp] theorem State.popWrite_pc (s : State) (rd : Reg) (v : Word) : (s.popWrite rd v).pc = s.pc :=
  (s.popWrite_frame rd v).1

/-- Either the pc has advanced, and the instruction is no jump; or a jump or a branch has left it at an address that
passed the check of R28. -/
theorem ExecShape.pc_cases {s t : State} {i : Instr} (h : ExecShape s i t) :
    (t.pc = s.pc + 4#32 ∧ i.kind ≠ .jump) ∨ ((i.kind = .jump ∨ i.kind = .branch) ∧ alignedTarget t.pc = true) := by
  cases h with
  | jumped rd target hk ha => exact .inr ⟨.inl hk, ha⟩
  | branched target hk ha => exact .inr ⟨.inr hk, ha⟩
  | result _ _ hk | shifted _ _ _ _ hk | passed hk | loaded _ _ _ _ hk | storedByte _ _ hk | storedHalf _ _ hk
  | storedWord _ _ hk | csrWritten _ _ _ _ hk _ | pushed _ _ _ hk | popped _ _ _ hk =>
    exact .inl ⟨by simp, by simp [hk]⟩

/-- Settles O44, from the shapes of a next state. -/
theorem pcAdvancesOrIsAlignedTarget : Obligations.PcAdvancesOrIsAlignedTarget := by
  intro i s t h
  obtain ⟨hpc, hk⟩ | ⟨hk, ha⟩ := (exec_shape h).pc_cases
  · exact ⟨fun _ _ => hpc, fun hj => absurd hj hk, fun _ => .inl hpc⟩
  · have hmod : t.pc.toNat % 4 = 0 := (alignedTarget_iff t.pc).mp ha
    exact ⟨fun hj hb => absurd hk (not_or.mpr ⟨hj, hb⟩), fun _ => hmod, fun _ => .inr hmod⟩

/-! ## The parameters and the rows of CSR_MAP -/

@[simp] theorem State.popWrite_cfg (s : State) (rd : Reg) (v : Word) : (s.popWrite rd v).cfg = s.cfg := by
  obtain ⟨_, _, _, hcfg, _, _⟩ := s.popWrite_frame rd v
  exact hcfg

@[simp] theorem State.popWrite_csrs (s : State) (rd : Reg) (v : Word) : (s.popWrite rd v).csrs = s.csrs := by
  obtain ⟨_, _, hcsrs, _, _, _⟩ := s.popWrite_frame rd v
  exact hcsrs

theorem ExecShape.cfg_eq {s t : State} {i : Instr} (h : ExecShape s i t) : t.cfg = s.cfg := by
  cases h <;> simp

/-- Only a CSR instruction touches the CSR file, and it changes values, not rows. -/
theorem ExecShape.csrs_decl {s t : State} {i : Instr} (h : ExecShape s i t) :
    t.csrs.map CsrEntry.decl = s.csrs.map CsrEntry.decl := by
  cases h with
  | csrWritten rd a e v _ _ =>
    rw [State.writeBack_csrs, State.csrEffects_decl, State.setCsr_csrs, csrModify_decl, State.csrEffects_decl]
  | result | shifted | jumped | branched | passed | loaded | storedByte | storedHalf | storedWord | pushed | popped =>
    simp

/-- Settles O47: the fetch keeps the parameters and the CSR file, and so does every shape of a next state. -/
theorem parametersNeverChange : Obligations.ParametersNeverChange := by
  intro s t h
  obtain ⟨w, i, _, _, hexec⟩ := step_next h
  have hshape := exec_shape hexec
  exact ⟨by simpa using hshape.cfg_eq, by simpa using hshape.csrs_decl⟩

/-! ## The shift blocks -/

/-- R177 to R179: one clock is a shift by one bit. -/
theorem shiftOnce_eq (k : ShiftKind) (v : Word) : shiftOnce k v = shiftValue k v 1 := by
  cases k with
  | left => exact (BitVec.shiftLeft_eq_concat_of_lt (x := v) (n := 1) (by decide)).symm
  | logicalRight => exact (BitVec.ushiftRight_eq_extractLsb'_of_lt (x := v) (n := 1) (by decide)).symm
  | arithmeticRight =>
    refine BitVec.eq_of_getLsbD_eq fun i hi => ?_
    rw [shiftOnce, shiftValue, BitVec.getLsbD_append, BitVec.getLsbD_sshiftRight]
    by_cases hlow : i < 31
    · simp [hlow, show ¬ 32 ≤ i by omega, show 1 + i < 32 by omega]
    · obtain rfl : i = 31 := by omega
      simp [BitVec.msb_eq_getLsbD_last]

/-- R266: one clock before a shift by `n` is a shift by `n + 1`. -/
theorem shiftValue_shiftOnce (k : ShiftKind) (v : Word) (n : Nat) :
    shiftValue k (shiftOnce k v) n = shiftValue k v (n + 1) := by
  rw [shiftOnce_eq, Nat.add_comm n 1]
  cases k with
  | left => exact (BitVec.shiftLeft_add v 1 n).symm
  | logicalRight => exact (BitVec.shiftRight_add v 1 n).symm
  | arithmeticRight => exact BitVec.sshiftRight_add.symm

theorem shiftValue_zero (k : ShiftKind) (v : Word) : shiftValue k v 0 = v := by
  cases k <;> simp [shiftValue]

/-- R266: while the Counter is not at zero, a clock moves the content by one bit and counts down. -/
theorem shiftClock_succ (k : ShiftKind) (v : Word) {n : Nat} (h : n + 1 < 2 ^ 32) :
    shiftClock k ⟨v, BitVec.ofNat 32 (n + 1)⟩ = ⟨shiftOnce k v, BitVec.ofNat 32 n⟩ := by
  have hne : BitVec.ofNat 32 (n + 1) ≠ 0#32 := by bv_omega
  have hpred : BitVec.ofNat 32 (n + 1) - 1#32 = BitVec.ofNat 32 n := by bv_omega
  simp [shiftClock, hne, hpred]

/-- Every amount that fits the Counter, by induction on it: each clock takes one bit off the shift that remains. -/
theorem shiftClocks_loaded (k : ShiftKind) (v : Word) {n : Nat} (h : n < 2 ^ 32) :
    shiftClocks k n ⟨v, BitVec.ofNat 32 n⟩ = ⟨shiftValue k v n, 0#32⟩ := by
  induction n generalizing v with
  | zero => rw [shiftClocks, shiftValue_zero]
  | succ n ih => rw [shiftClocks, shiftClock_succ k v h, ih _ (Nat.lt_of_succ_lt h), shiftValue_shiftOnce]

/-- Settles O57: an amount below 32 fits the Counter. -/
theorem shiftBlocksComputeTheShift : Obligations.ShiftBlocksComputeTheShift :=
  fun k v _ hn => shiftClocks_loaded k v (hn.trans (by decide))

end Sys2Proof.Machine
end

section
/-! PROOFS. The statements on the state (spec/10_state.md): the invariant and x[0] (O39, O40, O43), the comparisons
and the status bits (O58), the registers that no instruction names (O48, O59), the CSR file (O27, O28, O30, O46), and
where a step stops (O50). -/

namespace Sys2Proof.Machine

/-! ## The register file's entry for x[0] -/

@[simp] theorem State.setX_zero (s : State) (v : Word) : s.setX 0#5 v = s := rfl

/-- R21: no write reaches the register file's entry for x[0]. -/
@[simp] theorem State.setX_regs_zero (s : State) (i : Reg) (v : Word) : (s.setX i v).regs[0] = s.regs[0] := by
  by_cases hi : i = 0#5
  · rw [hi, State.setX_zero]
  · have hne : i.toNat ≠ 0 := fun e => hi (BitVec.eq_of_toNat_eq e)
    simp [State.setX, hi, hne]

@[simp] theorem State.writeBack_regs_zero (s : State) (rd : Reg) (v : Word) :
    (s.writeBack rd v).regs[0] = s.regs[0] := by
  simp [State.writeBack]

@[simp] theorem State.popWrite_regs_zero (s : State) (rd : Reg) (v : Word) :
    (s.popWrite rd v).regs[0] = s.regs[0] := by
  unfold State.popWrite
  split <;> [skip; split] <;> simp

theorem ExecShape.regs_zero {s t : State} {i : Instr} (h : ExecShape s i t) : t.regs[0] = s.regs[0] := by
  cases h <;> simp

/-- Settles O43: a write to x[0] is dropped by `setX`, and every shape of a next state writes registers through it. -/
theorem noInstructionWritesX0 : Obligations.NoInstructionWritesX0 :=
  ⟨fun s v => ⟨s.x_zero, s.setX_zero v⟩, fun _ _ t h => ⟨(exec_shape h).regs_zero, t.x_zero⟩⟩

/-! ## The invariant -/

@[simp] theorem State.popWrite_mem (s : State) (rd : Reg) (v : Word) : (s.popWrite rd v).mem = s.mem := by
  obtain ⟨_, hmem, _, _, _, _⟩ := s.popWrite_frame rd v
  exact hmem

/-- Every instruction keeps the canonical form of memory: a store through the writes that keep it, any other by leaving
memory alone. -/
theorem ExecShape.mem_wf {s t : State} {i : Instr} (h : ExecShape s i t) (hs : s.mem.wf = true) :
    t.mem.wf = true := by
  cases h with
  | storedByte a v _ => exact State.putByte_wf (by simpa using hs) a v
  | storedHalf a v _ => exact State.putHalf_wf (by simpa using hs) a v
  | storedWord a v _ => exact State.putWord_wf (by simpa using hs) a v
  | pushed a v sp _ => simpa using State.putWord_wf (s := (s.noteWrite a .word v).latchAddr a) (by simpa using hs) a v
  | result | shifted | jumped | branched | passed | loaded | csrWritten | popped => simpa using hs

/-- R28: every instruction keeps the pc a multiple of 4. -/
theorem ExecShape.pc_aligned {s t : State} {i : Instr} (h : ExecShape s i t) (hs : s.pc.toNat % 4 = 0) :
    t.pc.toNat % 4 = 0 := by
  obtain ⟨hpc, _⟩ | ⟨_, ha⟩ := h.pc_cases
  · rw [hpc]
    bv_omega
  · exact (alignedTarget_iff t.pc).mp ha

theorem ExecShape.inv {s t : State} {i : Instr} (h : ExecShape s i t) (hs : Inv s) : Inv t := by
  obtain ⟨hzero, hpc, hmem⟩ := hs
  exact ⟨h.regs_zero.trans hzero, h.pc_aligned hpc, h.mem_wf hmem⟩

/-- Settles O39: the fetch changes nothing that the invariant speaks of, and every shape of a next state keeps it. -/
theorem everyStepKeepsTheInvariant : Obligations.EveryStepKeepsTheInvariant := by
  intro s t hs h
  obtain ⟨w, i, _, _, hexec⟩ := step_next h
  exact (exec_shape hexec).inv hs

/-- R45: after a reset only the memory, which the platform loaded, has to be in canonical form already. -/
theorem inv_resetWith (cfg : Config.Params) (csrMap : List Config.CsrDecl) {mem : Memory} (h : mem.wf = true) :
    Inv (State.resetWith cfg csrMap mem) :=
  ⟨by simp [State.resetWith], rfl, h⟩

/-- Settles O40: State.reset is the reset over the empty memory. -/
theorem resetMeetsTheInvariant : Obligations.ResetMeetsTheInvariant :=
  ⟨inv_resetWith _ _ reset_mem_wf, fun cfg csrMap _ h => inv_resetWith cfg csrMap h⟩

/-! ## The comparisons and the status bits -/

/-- R29: the difference is zero exactly for equal operands. -/
theorem subStatus_zero (a b : Word) : (subStatus a b).zero = condEq a b := by
  have hiff : a + -b = 0#32 ↔ a = b := by bv_omega
  rw [Bool.eq_iff_iff]
  simpa [subStatus, addStatus, condEq] using hiff

/-- The two's complement of a second operand that is not 0 carries exactly when the subtraction does not borrow. -/
theorem subStatus_carry (a : Word) {b : Word} (hb : b ≠ 0#32) : (subStatus a b).carry = condGeu a b := by
  have hneg : (-b).toNat = 4294967296 - b.toNat := by bv_omega
  have hlt := b.isLt
  simp only [subStatus, addStatus, condGeu, hneg, decide_eq_decide]
  omega

theorem subStatus_sign (a b : Word) :
    (subStatus a b).sign = decide (2147483648 ≤ (a.toNat + (4294967296 - b.toNat)) % 4294967296) := by
  simp [subStatus, addStatus, BitVec.msb_eq_decide]

/-- R143: the difference of two operands of one sign does not overflow, so its sign decides. -/
theorem condLt_of_msb_eq {a b : Word} (h : a.msb = b.msb) : condLt a b = (subStatus a b).sign := by
  have ha := a.isLt
  have hb := b.isLt
  rw [subStatus_sign, condLt, BitVec.toInt_eq_msb_cond, BitVec.toInt_eq_msb_cond, h, decide_eq_decide]
  rw [BitVec.msb_eq_decide, BitVec.msb_eq_decide, decide_eq_decide] at h
  split <;> omega

/-- R143: of two operands of different signs, the negative one is the smaller. -/
theorem condLt_of_msb_ne {a b : Word} (h : a.msb ≠ b.msb) : condLt a b = a.msb := by
  rw [BitVec.msb_eq_toInt, BitVec.msb_eq_toInt, ne_eq, decide_eq_decide] at h
  rw [condLt, BitVec.msb_eq_toInt, decide_eq_decide]
  omega

/-- Settles O58. The sign of the difference is corrected by the operands' signs only where those differ. -/
theorem comparisonsFromStatusBits : Obligations.ComparisonsFromStatusBits := by
  intro a b
  refine ⟨(subStatus_zero a b).symm, ?_, fun hb => (subStatus_carry a hb).symm, ?_⟩
  · rw [subStatus_zero]
    rfl
  · by_cases h : a.msb = b.msb
    · simp [condLt_of_msb_eq h, h]
    · have hxor : (a.msb ^^ b.msb) = true := by simpa using h
      simp [condLt_of_msb_ne h, hxor]

/-! ## The registers that no instruction names -/

@[simp] theorem State.popWrite_hw (s : State) (rd : Reg) (v : Word) : (s.popWrite rd v).hw = s.hw := by
  obtain ⟨_, _, _, _, hhw, _⟩ := s.popWrite_frame rd v
  exact hhw

/-- Jumps, branches and CSR instructions leave these registers as they were. -/
theorem ExecShape.hw_eq {s t : State} {i : Instr} (h : ExecShape s i t)
    (hk : i.kind = .jump ∨ i.kind = .branch ∨ i.kind = .csr) : t.hw = s.hw := by
  cases h with
  | jumped | branched | passed | csrWritten => simp
  | result _ _ h' | shifted _ _ _ _ h' | loaded _ _ _ _ h' | storedByte _ _ h' | storedHalf _ _ h'
  | storedWord _ _ h' | pushed _ _ _ h' | popped _ _ _ h' => simp [h'] at hk

/-- R38: an instruction that is no shift loads the MAR with the address of its access, if it makes one, and touches no
other of these registers. -/
theorem exec_hw_of_not_shift {i : Instr} {s t : State} (h : exec i s = .next t) (hi : i.isShift = false) :
    t.hw = { s.hw with mar := (memAddr s i).getD s.hw.mar } := by
  cases i
  case slli | srli | srai | sll | srl | sra => cases hi
  case lui | auipc | addi | slti | sltiu | xori | ori | andi | add | sub | slt | sltu | xor | or | and | mul =>
    cases h
    simp [memAddr]
  case jal | jalr | beq | bne | blt | bge | bltu | bgeu | csrrw | csrrs | csrrc | csrrwi | csrrsi | csrrci =>
    exact (exec_shape h).hw_eq (by simp [Instr.kind])
  case lb | lh | lw | lbu | lhu =>
    obtain ⟨_, _, rfl⟩ := State.load_next h
    simp [memAddr]
  case sb =>
    obtain ⟨_, hw, rfl⟩ := map_ok (finish_next h)
    obtain ⟨_, _, rfl⟩ := State.writeByte_ok hw
    simp [memAddr]
  case sh =>
    obtain ⟨_, hw, rfl⟩ := map_ok (finish_next h)
    obtain ⟨_, _, rfl⟩ := State.writeHalf_ok hw
    simp [memAddr]
  case sw | swsp =>
    obtain ⟨_, hw, rfl⟩ := map_ok (finish_next h)
    obtain ⟨_, _, rfl⟩ := State.writeWord_ok hw
    simp [memAddr]
  case lwsp =>
    obtain ⟨_, _, rfl⟩ := map_ok (finish_next h)
    simp [memAddr]

/-- R266: a shift changes these registers as `latchShift` says, and no other way. -/
theorem State.shift_hw {s t : State} {k : ShiftKind} {rd : Reg} {a : Word} {n : Nat}
    (h : s.shift k rd a n = .next t) : t.hw = (s.latchShift k (shiftValue k a n)).hw := by
  cases h
  simp

theorem State.shiftImm_hw {s t : State} {i : Instr} {k : ShiftKind} {rd rs1 : Reg} {shamt : BitVec 6}
    (h : s.shiftImm i k rd rs1 shamt = .next t) :
    t.hw = (s.latchShift k (shiftValue k (s.x rs1) (shamtAmount shamt))).hw := by
  unfold State.shiftImm at h
  split at h
  · exact State.shift_hw h
  · cases h

@[simp] theorem State.latchShift_mar (s : State) (k : ShiftKind) (v : Word) :
    (s.latchShift k v).hw.mar = s.hw.mar := by
  cases k <;> rfl

/-- The instructions that `isShift` names are shifts of the model: they change these registers as one block does. -/
theorem exec_hw_of_shift {i : Instr} {s t : State} (h : exec i s = .next t) (hi : i.isShift = true) :
    memAddr s i = none ∧ ∃ k v, t.hw = (s.latchShift k v).hw := by
  cases i
  case slli | srli | srai => exact ⟨rfl, _, _, State.shiftImm_hw h⟩
  case sll | srl | sra => exact ⟨rfl, _, _, State.shift_hw h⟩
  all_goals cases hi

theorem shamtAmount_eq (shamt : BitVec 6) : shamtAmount shamt = shamt.toNat % 32 := by
  simp [shamtAmount]

theorem regAmount_eq (v : Word) : regAmount v = v.toNat % 32 := by
  simp [regAmount]

/-- Settles O59: the MAR by whether the instruction is a shift, the blocks' registers by the rule of the shifts. -/
theorem datapathRegistersAfterAnInstruction : Obligations.DatapathRegistersAfterAnInstruction := by
  refine ⟨fun i s t h => ?_, fun rd rs1 rs2 shamt s t n m hn hm => ?_⟩
  · cases hi : i.isShift with
    | false => simp [exec_hw_of_not_shift h hi]
    | true =>
      obtain ⟨haddr, k, v, hhw⟩ := exec_hw_of_shift h hi
      simp [hhw, haddr, State.latchShift_ir]
  · rw [← shamtAmount_eq] at hn
    rw [← regAmount_eq] at hm
    subst hn hm
    exact ⟨State.shiftImm_hw, State.shiftImm_hw, State.shiftImm_hw, State.shift_hw, State.shift_hw, State.shift_hw⟩

/-! ## The CSR instructions -/

/-- R200: an access to a CSR that CSR_MAP has completes. -/
theorem State.csrAccess_found {s : State} {a : CsrAddr} {e : CsrEntry} (h : csrFind s.csrs a = some e) (rd : Reg)
    (src : Word) (new : Word → Word → Word) :
    s.csrAccess rd a src new =
      .next ((((s.csrEffects .read e.decl.effects).setCsr a (new e.value src)).csrEffects .write
        e.decl.effects).writeBack rd e.value) := by
  simp [State.csrAccess, h]

/-- R201 to R206: the six CSR instructions are the common access with their own source and new value, so what holds of
every such access holds of the six. -/
theorem csr_forms {P : Instr → Word → Prop} {s : State} {rd : Reg} {a : CsrAddr} {old : Word}
    (h : ∀ i src new, exec i s = s.csrAccess rd a src new → P i (new old src)) (rs1 : Reg) (zimm : BitVec 5) :
    P (.csrrw rd a rs1) (s.x rs1) ∧ P (.csrrs rd a rs1) (old ||| s.x rs1) ∧
    P (.csrrc rd a rs1) (old &&& ~~~(s.x rs1)) ∧ P (.csrrwi rd a zimm) (zimm.zeroExtend 32) ∧
    P (.csrrsi rd a zimm) (old ||| zimm.zeroExtend 32) ∧ P (.csrrci rd a zimm) (old &&& ~~~(zimm.zeroExtend 32)) :=
  ⟨h _ (s.x rs1) (fun _ src => src) rfl, h _ (s.x rs1) (fun t src => t ||| src) rfl,
    h _ (s.x rs1) (fun t src => t &&& ~~~src) rfl, h _ (immZ zimm) (fun _ src => src) rfl,
    h _ (immZ zimm) (fun t src => t ||| src) rfl, h _ (immZ zimm) (fun t src => t &&& ~~~src) rfl⟩

/-- R35: the mask decides for each bit whether it takes the written value. -/
theorem CsrEntry.written_getLsbD (e : CsrEntry) (v : Word) (k : Nat) :
    (e.written v).getLsbD k = if e.decl.writable.getLsbD k then v.getLsbD k else e.value.getLsbD k := by
  by_cases hk : k < 32
  · rw [CsrEntry.written, BitVec.getLsbD_or, BitVec.getLsbD_and, BitVec.getLsbD_and, BitVec.getLsbD_not]
    cases e.decl.writable.getLsbD k <;> simp [hk]
  · simp [BitVec.getLsbD_of_ge, Nat.le_of_not_lt hk]

/-- The access without side effects: the one write, through the mask. -/
theorem csrRule_of_access {i : Instr} {s : State} {rd : Reg} {a : CsrAddr} {src : Word} {new : Word → Word → Word}
    {e : CsrEntry} (hi : exec i s = s.csrAccess rd a src new) (he : csrFind s.csrs a = some e)
    (hnone : e.decl.effects = []) : CsrRule i rd a e.value (e.written (new e.value src)) s := by
  refine ⟨_, hi.trans (State.csrAccess_found he rd src new), ?_⟩
  simp only [hnone, State.csrEffects_nil]
  refine ⟨by simp, fun r => by simp [State.writeBack_x], ?_, fun b hb => ?_, fun _ => by simp, by simp, by simp,
    by simp⟩
  · simp [State.csr, csrFind_modify, he]
  · simp [State.csr, csrFind_modify, hb]

/-- Settles O27, by the rule of the access without side effects. -/
theorem csrPartialMaskResults : Obligations.CsrPartialMaskResults :=
  fun _ rs1 zimm _ _ e he hnone =>
    ⟨e.written_getLsbD, csr_forms (P := fun i v => CsrRule i _ _ _ (e.written v) _)
      (fun _ _ _ hi => csrRule_of_access hi he hnone) rs1 zimm⟩

/-- The value of a CSR after an access to the one at `a`: what the read's effects, the write and the write's effects
make of it. -/
theorem State.csrAccess_value {s : State} {a b : CsrAddr} {e : CsrEntry} {new v : Word}
    (he : csrFind s.csrs a = some e) (hv : s.csr b = some v)
    (hstated : ∀ f ∈ e.decl.effects, f.target = b → f.change ≠ .unstated) :
    (((s.csrEffects .read e.decl.effects).setCsr a new).csrEffects .write e.decl.effects).csr b =
      some (afterEffects .write b e.decl.effects
        (if b = a then
          ({ e with value := afterEffects .read b e.decl.effects v } : CsrEntry).written new
        else afterEffects .read b e.decl.effects v)) := by
  obtain ⟨c, hc, rfl⟩ := Option.map_eq_some_iff.mp hv
  rw [State.csr, State.csrEffects_stated hstated, State.setCsr_csrs, csrFind_modify,
    State.csrEffects_stated hstated, hc]
  by_cases hb : b = a
  · obtain rfl : e = c := Option.some.inj (he.symm.trans (hb ▸ hc))
    simp [hb]
  · simp [hb]

/-- The access with whatever side effects the row declares. -/
theorem csrEffectRule_of_access {i : Instr} {s : State} {rd : Reg} {a : CsrAddr} {src : Word}
    {new : Word → Word → Word} {e : CsrEntry} (hi : exec i s = s.csrAccess rd a src new)
    (he : csrFind s.csrs a = some e) : CsrEffectRule i rd a e (new e.value src) s := by
  refine ⟨_, hi.trans (State.csrAccess_found he rd src new), by simp, fun r => by simp [State.writeBack_x],
    fun _ => by simp, by simp, by simp, fun hstated => ?_, ?_, fun b v u hv hstated hu => ?_⟩
  · simp [State.csrEffects_free hstated]
  · rw [State.writeBack_csrs, State.csrEffects_decl, State.setCsr_csrs, csrModify_decl, State.csrEffects_decl]
  · rw [hu, State.csr, State.writeBack_csrs]
    exact State.csrAccess_value he hv hstated

/-- Settles O28, by the rule of the access with the row's side effects. -/
theorem csrSideEffectResults : Obligations.CsrSideEffectResults :=
  fun _ rs1 zimm _ _ _ he => csr_forms (P := fun i v => CsrEffectRule i _ _ _ v _)
    (fun _ _ _ hi => csrEffectRule_of_access hi he) rs1 zimm

/-- R34: every other instruction leaves the CSR file as it was. -/
theorem ExecShape.csrs_eq {s t : State} {i : Instr} (h : ExecShape s i t) (hi : i.kind ≠ .csr) : t.csrs = s.csrs := by
  cases h with
  | csrWritten _ _ _ _ hk _ => exact absurd hk hi
  | result | shifted | jumped | branched | passed | loaded | storedByte | storedHalf | storedWord | pushed | popped =>
    simp

theorem csrFind_mem {l : List CsrEntry} {a : CsrAddr} {e : CsrEntry} (h : csrFind l a = some e) : e ∈ l := by
  induction l with
  | nil => cases h
  | cons c rest ih =>
    unfold csrFind at h
    split at h
    · cases h
      exact List.mem_cons_self
    · exact List.mem_cons_of_mem _ (ih h)

/-- A CSR on which no row declares a side effect changes by the write of an access, and by nothing else. -/
theorem ExecShape.csrFind_cases {s t : State} {i : Instr} (h : ExecShape s i t) {a : CsrAddr} {e : CsrEntry}
    (he : csrFind s.csrs a = some e) (ha : ∀ c ∈ s.csrs, NotATarget a c.decl) :
    t.csr a = some e.value ∨ ∃ v, t.csr a = some (e.written v) := by
  cases h with
  | csrWritten rd b c v _ hc =>
    have hnot := ha c (csrFind_mem hc)
    rw [State.csr, State.writeBack_csrs, State.csrEffects_find hnot, State.setCsr_csrs, csrFind_modify,
      State.csrEffects_find hnot, he]
    by_cases hab : a = b
    · exact .inr ⟨v, by simp [hab]⟩
    · exact .inl (by simp [hab])
  | result | shifted | jumped | branched | passed | loaded | storedByte | storedHalf | storedWord | pushed | popped =>
    exact .inl (by simp [State.csr, he])

/-- Settles O30: the mask keeps the bit where the CSR is written. -/
theorem csrBitsOutsideTheMaskAreKept : Obligations.CsrBitsOutsideTheMaskAreKept := by
  intro i s t a e k h he ha hk
  obtain hsame | ⟨v, hwritten⟩ := (exec_shape h).csrFind_cases he ha
  · exact ⟨_, hsame, rfl⟩
  · exact ⟨_, hwritten, by rw [e.written_getLsbD, hk]; rfl⟩

/-! ## What no instruction reads

Two states that differ only in what an instruction does not read are compared by hiding it: the CSR file, the datapath
registers, or both are put at a given value before the instruction and after it. -/

/-- The state with the CSR file at `c` and the registers that no instruction names at `h`, each where it is given. -/
def State.hide (c : Option (List CsrEntry)) (h : Option Datapath) (s : State) : State :=
  { s with csrs := c.getD s.csrs, hw := h.getD s.hw }

theorem State.hide_csrs (c : List CsrEntry) : State.hide (some c) none = State.withCsrs c := rfl

theorem State.hide_datapath (h : Datapath) (s : State) : s.hide none (some h) = { s with hw := h } := rfl

theorem forgetDatapath_eq (r : Result) : forgetDatapath r = mapNext (State.hide none (some Datapath.reset)) r := rfl

section
variable (c : Option (List CsrEntry)) (h : Option Datapath) (s : State)

@[simp] theorem State.hide_pc : (s.hide c h).pc = s.pc := rfl
@[simp] theorem State.hide_cfg : (s.hide c h).cfg = s.cfg := rfl
@[simp] theorem State.hide_free : (s.hide c h).free = s.free := rfl
@[simp] theorem State.hide_x (r : Reg) : (s.hide c h).x r = s.x r := rfl
@[simp] theorem State.hide_effective (r : Reg) (o : BitVec 12) : (s.hide c h).effective r o = s.effective r o := rfl
@[simp] theorem State.hide_pushAddr (u : BitVec 6) : (s.hide c h).pushAddr u = s.pushAddr u := rfl
@[simp] theorem State.hide_popAddr (u : BitVec 6) (r : BitVec 5) : (s.hide c h).popAddr u r = s.popAddr u r := rfl
@[simp] theorem State.hide_checkAccess (a : Word) (w : Width) : (s.hide c h).checkAccess a w = s.checkAccess a w := rfl
@[simp] theorem State.hide_readByte (a : Word) : (s.hide c h).readByte a = s.readByte a := rfl
@[simp] theorem State.hide_readHalf (a : Word) : (s.hide c h).readHalf a = s.readHalf a := rfl
@[simp] theorem State.hide_readWord (a : Word) : (s.hide c h).readWord a = s.readWord a := rfl

/-! Hiding moves inside every operation of an instruction. -/

@[simp] theorem State.hide_hide : (s.hide c h).hide c h = s.hide c h := by cases c <;> cases h <;> rfl
@[simp] theorem State.hide_setX (i : Reg) (v : Word) : (s.setX i v).hide c h = (s.hide c h).setX i v := by
  unfold State.setX
  split <;> rfl
@[simp] theorem State.hide_setPc (t : Word) : (s.setPc t).hide c h = (s.hide c h).setPc t := rfl
@[simp] theorem State.hide_advance : s.advance.hide c h = (s.hide c h).advance := rfl
@[simp] theorem State.hide_writeBack (rd : Reg) (v : Word) :
    (s.writeBack rd v).hide c h = (s.hide c h).writeBack rd v := by
  simp [State.writeBack]
@[simp] theorem State.hide_noteRead (a : Word) (w : Width) :
    (s.noteRead a w).hide c h = (s.hide c h).noteRead a w := rfl
@[simp] theorem State.hide_noteWrite (a : Word) (w : Width) (v : Word) :
    (s.noteWrite a w v).hide c h = (s.hide c h).noteWrite a w v := rfl
@[simp] theorem State.hide_putByte (a : Word) (v : Byte) : (s.putByte a v).hide c h = (s.hide c h).putByte a v := rfl
@[simp] theorem State.hide_putHalf (a : Word) (v : Half) : (s.putHalf a v).hide c h = (s.hide c h).putHalf a v := rfl
@[simp] theorem State.hide_putWord (a v : Word) : (s.putWord a v).hide c h = (s.hide c h).putWord a v := rfl
@[simp] theorem State.hide_popWrite (rd : Reg) (v : Word) :
    (s.popWrite rd v).hide c h = (s.hide c h).popWrite rd v := by
  simp only [State.popWrite, State.hide_cfg, State.hide_free, State.hide_x, ← State.hide_setX]
  split <;> [skip; split] <;> rfl

/-- Where the datapath registers are hidden, what an access leaves in the MAR is not seen. -/
@[simp] theorem State.hide_latchAddr (a : Word) :
    (s.latchAddr a).hide c h = if h.isSome then s.hide c h else (s.hide c h).latchAddr a := by
  cases h <;> rfl

/-- Where the datapath registers are hidden, what a shift leaves in its block is not seen. -/
@[simp] theorem State.hide_latchShift (k : ShiftKind) (v : Word) :
    (s.latchShift k v).hide c h = if h.isSome then s.hide c h else (s.hide c h).latchShift k v := by
  cases h <;> cases k <;> rfl

/-! The shared operations, from the state and from the hidden state. -/

theorem State.jumpAndLink_hide (rd : Reg) (t : Word) :
    mapNext (State.hide c h) ((s.hide c h).jumpAndLink rd t) = mapNext (State.hide c h) (s.jumpAndLink rd t) := by
  cases ha : alignedTarget t <;> simp [State.jumpAndLink, mapNext, State.raise, ha]

theorem State.branch_hide (taken : Bool) (o : BitVec 13) :
    mapNext (State.hide c h) ((s.hide c h).branch taken o) = mapNext (State.hide c h) (s.branch taken o) := by
  cases taken with
  | false => simp [State.branch, mapNext]
  | true => cases ha : alignedTarget (s.pc + offsetB o) <;> simp [State.branch, mapNext, State.raise, ha]

theorem State.shift_hide (k : ShiftKind) (rd : Reg) (a : Word) (n : Nat) :
    mapNext (State.hide c h) ((s.hide c h).shift k rd a n) = mapNext (State.hide c h) (s.shift k rd a n) := by
  simp [State.shift, mapNext]

theorem State.shiftImm_hide (i : Instr) (k : ShiftKind) (rd rs1 : Reg) (shamt : BitVec 6) :
    mapNext (State.hide c h) ((s.hide c h).shiftImm i k rd rs1 shamt) =
      mapNext (State.hide c h) (s.shiftImm i k rd rs1 shamt) := by
  unfold State.shiftImm
  split
  · exact State.shift_hide c h s k rd _ _
  · rfl

/-- An instruction that may stop in a fault before it changes the state, and the same with its change hidden. -/
theorem finish_hide_congr {α : Type} {c : Option (List CsrEntry)} {h : Option Datapath} {f g : α → State}
    (r : Except Fault α) (hfg : ∀ v, (f v).hide c h = (g v).hide c h) :
    mapNext (State.hide c h) (finish (r.map f)) = mapNext (State.hide c h) (finish (r.map g)) := by
  cases r with
  | error e => rfl
  | ok v => exact congrArg Host.Outcome.next (hfg v)

theorem State.load_hide (rd : Reg) (a : Word) (w : Width) (v : Except Fault Word) :
    mapNext (State.hide c h) ((s.hide c h).load rd a w v) = mapNext (State.hide c h) (s.load rd a w v) :=
  finish_hide_congr v fun u => by simp

theorem State.writeByte_hide (a : Word) (v : Byte) :
    ((s.hide c h).writeByte a v).map (State.hide c h) = (s.writeByte a v).map (State.hide c h) := by
  simp only [State.writeByte, State.hide_checkAccess]
  cases s.checkAccess a .byte <;> simp [Except.map]

theorem State.writeHalf_hide (a : Word) (v : Half) :
    ((s.hide c h).writeHalf a v).map (State.hide c h) = (s.writeHalf a v).map (State.hide c h) := by
  simp only [State.writeHalf, State.hide_checkAccess]
  cases s.checkAccess a .half <;> simp [Except.map]

theorem State.writeWord_hide (a v : Word) :
    ((s.hide c h).writeWord a v).map (State.hide c h) = (s.writeWord a v).map (State.hide c h) := by
  simp only [State.writeWord, State.hide_checkAccess]
  cases s.checkAccess a .word <;> simp [Except.map]

end

/-- The end `f` of a store, after writes that agree where nothing is hidden. -/
theorem finish_hide_end {c : Option (List CsrEntry)} {h : Option Datapath} {r r' : Except Fault State}
    (hr : r.map (State.hide c h) = r'.map (State.hide c h)) {f : State → State}
    (hf : ∀ u, (f u).hide c h = f (u.hide c h)) :
    mapNext (State.hide c h) (finish (r.map f)) = mapNext (State.hide c h) (finish (r'.map f)) := by
  cases r <;> cases r' <;> simp_all [Except.map, finish, mapNext]

/-- R34, R39: no instruction but the six of the CSRs reads the CSR file or the datapath registers. -/
theorem exec_hide {i : Instr} (hi : i.kind ≠ .csr) (c : Option (List CsrEntry)) (h : Option Datapath) (s : State) :
    mapNext (State.hide c h) (exec i (s.hide c h)) = mapNext (State.hide c h) (exec i s) := by
  cases i
  case csrrw | csrrs | csrrc | csrrwi | csrrsi | csrrci => exact absurd rfl hi
  case lui | auipc | addi | slti | sltiu | xori | ori | andi | add | sub | slt | sltu | xor | or | and | mul =>
    exact congrArg Host.Outcome.next (by simp)
  case slli | srli | srai => exact State.shiftImm_hide ..
  case sll | srl | sra => exact State.shift_hide ..
  case jal | jalr => exact State.jumpAndLink_hide ..
  case beq | bne | blt | bge | bltu | bgeu => exact State.branch_hide ..
  case lb | lh | lw | lbu | lhu => exact State.load_hide ..
  case sb => exact finish_hide_end (State.writeByte_hide ..) fun _ => by simp
  case sh => exact finish_hide_end (State.writeHalf_hide ..) fun _ => by simp
  case sw | swsp => exact finish_hide_end (State.writeWord_hide ..) fun _ => by simp
  case lwsp => exact finish_hide_congr _ fun _ => by simp

/-- Settles O46. The run from the replaced file reads nothing of it, and keeps it. -/
theorem onlyCsrInstructionsTouchCsrs : Obligations.OnlyCsrInstructionsTouchCsrs := by
  intro i s c hi
  rw [← State.hide_csrs, ← exec_hide hi]
  cases hexec : exec i (s.hide (some c) none) with
  | next t =>
    have hcsrs : t.csrs = c := (exec_shape hexec).csrs_eq hi
    simp [mapNext, State.hide, ← hcsrs]
  | fault f => rfl
  | refused r => rfl

@[simp] theorem State.hide_setCsr (h : Datapath) (s : State) (a : CsrAddr) (v : Word) :
    (s.setCsr a v).hide none (some h) = (s.hide none (some h)).setCsr a v := rfl

@[simp] theorem State.hide_csrEffects (h : Datapath) (s : State) (g : Config.CsrTrigger) (l : List Config.CsrEffect) :
    (s.csrEffects g l).hide none (some h) = (s.hide none (some h)).csrEffects g l :=
  (s.csrEffects_datapath h g l).symm

/-- R200, R207: a CSR access does not read the datapath registers. -/
theorem State.csrAccess_hide (h : Datapath) (s : State) (rd : Reg) (a : CsrAddr) (src : Word)
    (new : Word → Word → Word) :
    mapNext (State.hide none (some h)) ((s.hide none (some h)).csrAccess rd a src new) =
      mapNext (State.hide none (some h)) (s.csrAccess rd a src new) := by
  have hcsrs : (s.hide none (some h)).csrs = s.csrs := rfl
  cases he : csrFind s.csrs a <;> simp [State.csrAccess, hcsrs, he, mapNext, State.raise]

/-- R200: a CSR instruction is the common access, with a source that the register file or the instruction gives. -/
theorem exec_csr {i : Instr} (hi : i.kind = .csr) :
    ∃ (rd : Reg) (a : CsrAddr) (src : State → Word) (new : Word → Word → Word),
      (∀ {s t : State}, t.regs = s.regs → src t = src s) ∧ ∀ s, exec i s = s.csrAccess rd a (src s) new := by
  cases i
  case csrrw rd a rs1 =>
    exact ⟨rd, a, (·.x rs1), fun _ src => src, fun h => State.x_congr h rs1, fun _ => rfl⟩
  case csrrs rd a rs1 =>
    exact ⟨rd, a, (·.x rs1), fun t src => t ||| src, fun h => State.x_congr h rs1, fun _ => rfl⟩
  case csrrc rd a rs1 =>
    exact ⟨rd, a, (·.x rs1), fun t src => t &&& ~~~src, fun h => State.x_congr h rs1, fun _ => rfl⟩
  case csrrwi rd a zimm => exact ⟨rd, a, fun _ => immZ zimm, fun _ src => src, fun _ => rfl, fun _ => rfl⟩
  case csrrsi rd a zimm => exact ⟨rd, a, fun _ => immZ zimm, fun t src => t ||| src, fun _ => rfl, fun _ => rfl⟩
  case csrrci rd a zimm => exact ⟨rd, a, fun _ => immZ zimm, fun t src => t &&& ~~~src, fun _ => rfl, fun _ => rfl⟩
  all_goals cases hi

theorem exec_hide_datapath (i : Instr) (h : Datapath) (s : State) :
    mapNext (State.hide none (some h)) (exec i (s.hide none (some h))) =
      mapNext (State.hide none (some h)) (exec i s) := by
  by_cases hi : i.kind = .csr
  · obtain ⟨rd, a, src, new, hsrc, hexec⟩ := exec_csr hi
    rw [hexec, hexec, hsrc (t := s.hide none (some h)) (s := s) rfl]
    exact State.csrAccess_hide h s rd a (src s) new
  · exact exec_hide hi none (some h) s

/-- R39: two states that differ in the datapath registers alone give, but for those, one outcome. -/
theorem exec_datapath (i : Instr) (h : Datapath) (s : State) :
    forgetDatapath (exec i (s.hide none (some h))) = forgetDatapath (exec i s) := by
  rw [forgetDatapath_eq, forgetDatapath_eq, ← exec_hide_datapath, ← exec_hide_datapath i _ s]
  rfl

/-- Settles O48: the fetch reads none of these registers and latches into them alone, and then the instruction is
`exec_datapath`'s. -/
theorem datapathRegistersAreUnobservable : Obligations.DatapathRegistersAreUnobservable := by
  intro s h
  have hfetch : ({ s with hw := h } : State).fetch = s.fetch := rfl
  unfold step
  rw [hfetch]
  cases s.fetch with
  | error e => rfl
  | ok w =>
    dsimp only
    cases decode w with
    | error e => rfl
    | ok i => exact exec_datapath i { h with ir := w, mar := s.pc } ((s.noteRead s.pc .word).latchFetch w)

/-! ## Where a step stops -/

/-- What a step from `s` can answer: a next state, or one of the faults of R236 to R240 at the pc; and never a refusal.
The faults of memory are those of the checks of an access (R242). -/
inductive OutcomeShape (s : State) : Result → Prop
  | next (t : State) : OutcomeShape s (.next t)
  | illegalWord (w : Word) : OutcomeShape s (.fault (.illegalInstruction w s.pc))
  | misalignedTarget (t : Word) : OutcomeShape s (.fault (.misalignedFetch t s.pc))
  | noCsr (a : CsrAddr) : OutcomeShape s (.fault (.unimplementedCSR a s.pc))
  | badAccess {a : Word} {w : Width} {f : Fault} : s.checkAccess a w = .error f → OutcomeShape s (.fault f)

theorem State.jumpAndLink_outcome (s : State) (rd : Reg) (t : Word) : OutcomeShape s (s.jumpAndLink rd t) := by
  unfold State.jumpAndLink
  split
  · exact .next _
  · exact .misalignedTarget t

theorem State.branch_outcome (s : State) (taken : Bool) (o : BitVec 13) : OutcomeShape s (s.branch taken o) := by
  unfold State.branch
  split
  · dsimp only
    split
    · exact .next _
    · exact .misalignedTarget _
  · exact .next _

theorem State.shiftImm_outcome (s : State) (i : Instr) (k : ShiftKind) (rd rs1 : Reg) (shamt : BitVec 6) :
    OutcomeShape s (s.shiftImm i k rd rs1 shamt) := by
  unfold State.shiftImm
  split
  · exact .next _
  · exact .illegalWord _

theorem State.csrAccess_outcome (s : State) (rd : Reg) (a : CsrAddr) (src : Word) (new : Word → Word → Word) :
    OutcomeShape s (s.csrAccess rd a src new) := by
  unfold State.csrAccess
  split
  · exact .noCsr a
  · exact .next _

/-- An operation after one that may raise a fault raises that fault, and none of its own. -/
theorem map_error {α β : Type} {f : α → β} {e : Except Fault α} {x : Fault} (h : e.map f = .error x) :
    e = .error x := by
  cases e with
  | error y => simpa [Except.map] using h
  | ok a => simp [Except.map] at h

/-- An instruction that accesses memory stops only where the checks of its access stop it. -/
theorem finish_outcome {s : State} {r : Except Fault State} (a : Word) (w : Width)
    (h : ∀ f, r = .error f → s.checkAccess a w = .error f) : OutcomeShape s (finish r) := by
  cases r with
  | error f => exact .badAccess (h f rfl)
  | ok t => exact .next t

/-- Every instruction, by what it shares with others: the CSR access, a result, or one of the operations that can
stop. -/
theorem exec_outcome (i : Instr) (s : State) : OutcomeShape s (exec i s) := by
  by_cases hi : i.kind = .csr
  · obtain ⟨rd, a, src, new, _, hexec⟩ := exec_csr hi
    exact hexec s ▸ s.csrAccess_outcome rd a (src s) new
  cases i
  case lui | auipc | addi | slti | sltiu | xori | ori | andi | add | sub | slt | sltu | xor | or | and | mul =>
    exact .next _
  case sll | srl | sra => exact .next _
  case slli | srli | srai => exact State.shiftImm_outcome ..
  case jal | jalr => exact State.jumpAndLink_outcome ..
  case beq | bne | blt | bge | bltu | bgeu => exact State.branch_outcome ..
  case lb | lh | lbu | lhu => exact finish_outcome _ _ fun _ h => map_error (map_error (map_error h))
  case lw | lwsp | sb | sh | sw | swsp => exact finish_outcome _ _ fun _ h => map_error (map_error h)
  case csrrw | csrrs | csrrc | csrrwi | csrrsi | csrrci => exact absurd rfl hi

/-- The fetch leaves the pc and the parameters, so what an instruction stops on is seen from the state before it. -/
theorem OutcomeShape.of_fetch {s : State} {w : Word} {r : Result}
    (h : OutcomeShape ((s.noteRead s.pc .word).latchFetch w) r) : OutcomeShape s r := by
  cases h with
  | next t => exact .next t
  | illegalWord v => exact .illegalWord v
  | misalignedTarget t => exact .misalignedTarget t
  | noCsr a => exact .noCsr a
  | badAccess hcheck => exact .badAccess hcheck

theorem step_outcome (s : State) : OutcomeShape s (step s) := by
  unfold step
  split
  · rename_i hfetch
    exact .badAccess (map_error hfetch)
  · split
    · exact .illegalWord _
    · exact (exec_outcome _ _).of_fetch

/-- R239: where all addresses are plain memory, no check of an access finds a byte outside MEM_MAP. -/
theorem State.checkAccess_ne_accessFault {s : State} (hs : AllMemory s) (a : Word) (w : Width) (b pc : Word) :
    s.checkAccess a w ≠ .error (.accessFault b pc) := by
  have hplain : s.plainMemory a w = true := by
    rw [State.plainMemory, List.all_eq_true]
    exact fun c _ => by simp [hs c.toNat c.isLt]
  have hbacked := State.plainMemory_backed hplain
  rcases s.checkAccess_cases a w with ⟨_, hcheck⟩ | ⟨_, hnot, _⟩ | ⟨_, _, hcheck⟩
  · simp [hcheck]
  · simp [hbacked] at hnot
  · simp [hcheck]

/-- Settles O50, from what a step can answer. -/
theorem noRefusalAndNoAccessFaultInPlainMemory : Obligations.NoRefusalAndNoAccessFaultInPlainMemory := by
  refine ⟨fun s r h => ?_, fun s hs a pc h => ?_⟩
  · cases h ▸ step_outcome s
  · cases h ▸ step_outcome s with
    | badAccess hcheck => exact State.checkAccess_ne_accessFault hs _ _ a pc hcheck

end Sys2Proof.Machine
end


section
/-! PROOFS. The statements on memory (spec/20_memory.md): what a step fetches and runs (O1, O3, O9, O10, O38, O51), the
bytes that accesses of each width see (O45, O52, O53, O54), and the accesses that touch a device (O36, O37). -/

namespace Sys2Proof.Machine

/-! ## The step, by what the fetch gives -/

theorem step_of_fetch_error {s : State} {e : Fault} (h : s.fetch = .error e) : step s = .fault e := by
  simp [step, h]

theorem step_of_decode {s : State} {w : Word} {i : Instr} (h : s.fetch = .ok w) (hi : decode w = .ok i) :
    step s = exec i ((s.noteRead s.pc .word).latchFetch w) := by
  simp [step, h, hi]

theorem step_of_illegal {s : State} {w : Word} {e : Illegal} (h : s.fetch = .ok w) (he : decode w = .error e) :
    step s = .fault (.illegalInstruction w s.pc) := by
  simp [step, h, he, State.raise]

/-- Settles O1: a fetch from plain memory gives the word at the pc and leaves no note. -/
theorem stepRunsDecodedInstruction : Obligations.StepRunsDecodedInstruction := by
  intro s i h hi
  rw [step_of_decode (State.fetch_accessible h) hi, State.noteRead_plain (State.accessible_plain h)]
  rfl

/-- Settles O3, by the two checks of the fetch's access. -/
theorem fetchStopsOutsideTheMap : Obligations.FetchStopsOutsideTheMap := by
  intro s
  refine ⟨fun h => step_of_fetch_error ?_, fun h hb => step_of_fetch_error ?_⟩
  · rw [State.fetch, State.readWord, State.checkAccess_misaligned h]
    rfl
  · rw [State.fetch, State.readWord, State.checkAccess_unbacked h hb]
    rfl

/-- The fetch from an address of plain memory, with the pc put there. -/
theorem State.fetch_at {s : State} {a : Word} (h : s.accessible a .word = true) :
    ({ s with pc := a } : State).fetch = .ok (s.wordAt a) :=
  State.fetch_accessible (s := { s with pc := a }) h

/-! ## Words that do not decode -/

/-- R103: the quadrants 00 and 01 hold no instruction. -/
theorem decode_of_bit1_clear {w : Word} (h : w.getLsbD 1 = false) : decode w = .error .quadrant := by
  have hbit : (bits w 0 2).getLsbD 1 = false := by simpa [bits] using h
  have h2 : bits w 0 2 ≠ 0b10#2 := fun e => by simp [e] at hbit
  have h3 : bits w 0 2 ≠ 0b11#2 := fun e => by simp [e] at hbit
  rw [decode, if_neg h2, if_neg h3]

/-- The two low bits of a word are those of its opcode. -/
theorem quadrant_of_fOpcode (w : Word) : bits w 0 2 = (fOpcode w).extractLsb' 0 2 := by
  refine BitVec.eq_of_getLsbD_eq fun k hk => ?_
  simp [bits, fOpcode, hk]

/-- R62: the opcode of FENCE and FENCE.I is no instruction's. -/
theorem decode_of_fence_opcode {w : Word} (h : fOpcode w = 0b0001111#7) : decode w = .error .opcode := by
  have hq : bits w 0 2 = 0b11#2 := by rw [quadrant_of_fOpcode, h]; rfl
  simp [decode, hq, decodeWide, h]

/-- Settles O9: the words written out by evaluation, the two classes by the bits that the decoder looks at first. -/
theorem absentInstructionsDoNotDecode : Obligations.AbsentInstructionsDoNotDecode := by
  refine ⟨?_, fun w h => ⟨_, decode_of_bit1_clear h⟩, fun w h => ⟨_, decode_of_fence_opcode h⟩⟩
  simp only [List.forall_mem_cons]
  exact ⟨⟨_, rfl⟩, ⟨_, rfl⟩, ⟨_, rfl⟩, ⟨_, rfl⟩, ⟨_, rfl⟩, ⟨_, rfl⟩, ⟨_, rfl⟩, by simp⟩

/-! ## Memory after an update -/

@[simp] theorem State.setX_byteAt (s : State) (i : Reg) (v a : Word) : (s.setX i v).byteAt a = s.byteAt a := by
  simp [State.byteAt]
@[simp] theorem State.setX_halfAt (s : State) (i : Reg) (v a : Word) : (s.setX i v).halfAt a = s.halfAt a := by
  simp [State.halfAt]
@[simp] theorem State.setX_wordAt (s : State) (i : Reg) (v a : Word) : (s.setX i v).wordAt a = s.wordAt a := by
  simp [State.wordAt]
@[simp] theorem State.advance_byteAt (s : State) (a : Word) : s.advance.byteAt a = s.byteAt a := rfl
@[simp] theorem State.advance_halfAt (s : State) (a : Word) : s.advance.halfAt a = s.halfAt a := rfl
@[simp] theorem State.advance_wordAt (s : State) (a : Word) : s.advance.wordAt a = s.wordAt a := rfl

theorem State.putByte_byteAt (s : State) (a : Word) (v : Byte) : (s.putByte a v).byteAt a = v := by
  rw [State.byteAt, State.putByte_read, if_pos rfl]

/-- R53: a byte store leaves every other byte as it was. -/
theorem State.putByte_read_outside (s : State) (a : Word) (v : Byte) (b : Nat)
    (h : ∀ c ∈ accessBytes a .byte, b ≠ c.toNat) : (s.putByte a v).mem.read b = s.mem.read b := by
  rw [State.putByte_read, if_neg (h a (by simp [accessBytes]))]

/-- An aligned access to plain memory, or to a part of it, is accessible, also after what keeps MEM_MAP. -/
theorem State.accessible_of_plain {s t : State} {a b : Word} {w u : Width} (hp : s.plainMemory a w = true)
    (hcfg : t.cfg = s.cfg) (hb : alignedFor b u = true) (hsub : accessBytes b u ⊆ accessBytes a w) :
    t.accessible b u = true := by
  simp only [State.plainMemory, List.all_eq_true] at hp
  simp only [State.accessible, State.plainMemory, hb, Bool.true_and, List.all_eq_true, hcfg]
  exact fun c hc => hp c (hsub hc)

theorem State.accessible_aligned {s : State} {a : Word} {w : Width} (h : s.accessible a w = true) :
    alignedFor a w = true := by
  simp only [State.accessible, Bool.and_eq_true] at h
  exact h.1

/-- R56: an instruction that is no store leaves memory as it was. -/
theorem ExecShape.mem_eq {s t : State} {i : Instr} (h : ExecShape s i t) (hi : i.kind ≠ .store) : t.mem = s.mem := by
  cases h with
  | storedByte _ _ hk | storedHalf _ _ hk | storedWord _ _ hk | pushed _ _ _ hk => exact absurd hk hi
  | result | shifted | jumped | branched | passed | loaded | csrWritten | popped => simp

/-- Settles O45, from the shapes of a next state. -/
theorem onlyStoresChangeMemory : Obligations.OnlyStoresChangeMemory :=
  fun _ _ _ h hi => (exec_shape h).mem_eq hi

/-! ## The word placed at the pc -/

/-- The decoder reads an opcode-table word of 32 bits as the word itself. -/
theorem decode_of_decodeTableWord {w : Nat} {i : Instr} (h : decodeTableWord 32 w = some i) :
    decode (tableWord 32 w) = .ok i := by
  simp only [decodeTableWord, decodeBytes, joinWord_bytes] at h
  cases hd : decode (tableWord 32 w) with
  | error e => simp [hd, Except.toOption] at h
  | ok j => simpa [hd, Except.toOption] using h

theorem tableWord_eq (w : Nat) : tableWord 32 w = BitVec.ofNat 32 w :=
  BitVec.eq_of_toNat_eq (by simp [tableWord])

@[simp] theorem State.withFetchWord_pc (s : State) (n w : Nat) : (s.withFetchWord n w).pc = s.pc :=
  State.putWord_pc s _ _
@[simp] theorem State.withFetchWord_cfg (s : State) (n w : Nat) : (s.withFetchWord n w).cfg = s.cfg :=
  State.putWord_cfg s _ _

/-- The word placed is the word at the pc, in either byte order. -/
theorem State.withFetchWord_wordAt (s : State) (n w : Nat) : (s.withFetchWord n w).wordAt s.pc = tableWord n w :=
  State.putWord_wordAt s _ _

/-- Settles O10: the placed word is at the pc, so the step is O1's. -/
theorem placedWordIsRunNext : Obligations.PlacedWordIsRunNext := by
  intro s w i h hi
  have hword := s.withFetchWord_wordAt 32 w
  have hacc : (s.withFetchWord 32 w).accessible s.pc .word = true :=
    State.accessible_of_plain (State.accessible_plain h) (s.withFetchWord_cfg 32 w) (State.accessible_aligned h)
      (List.Subset.refl _)
  rw [← s.withFetchWord_pc 32 w] at hword hacc
  rw [stepRunsDecodedInstruction _ i hacc (hword ▸ decode_of_decodeTableWord hi), hword, tableWord_eq,
    State.withFetchWord_pc]
  rfl

/-! ## Reads after writes -/

/-- Settles O53, from the order in which the bytes are joined. -/
theorem byteOrderOfReads : Obligations.ByteOrderOfReads := by
  intro s a
  refine ⟨fun h => ?_, fun h => ?_⟩
  · simp [State.halfAt, State.wordAt, h, joinHalf, joinWord]
  · simp [State.halfAt, State.wordAt, h, joinHalf, joinWord]

/-- Settles O52: a write that does not stop leaves the value where the read of its width finds it. -/
theorem readGivesWhatWasWritten : Obligations.ReadGivesWhatWasWritten := by
  intro s t a
  refine ⟨fun v hp h => ?_, fun v hp h => ?_, fun v hp h => ?_⟩
  · obtain ⟨ha, _, rfl⟩ := State.writeByte_ok h
    rw [State.readByte_accessible (State.accessible_of_plain hp (by simp) ha (List.Subset.refl _)),
      State.putByte_byteAt]
  · obtain ⟨ha, _, rfl⟩ := State.writeHalf_ok h
    rw [State.readHalf_accessible (State.accessible_of_plain hp (by simp) ha (List.Subset.refl _)),
      State.putHalf_halfAt]
  · obtain ⟨ha, _, rfl⟩ := State.writeWord_ok h
    rw [State.readWord_accessible (State.accessible_of_plain hp (by simp) ha (List.Subset.refl _)),
      State.putWord_wordAt]

/-- Settles O51: SW is a write of the word, and the pc's advance does not move it. -/
theorem storedWordIsFetched : Obligations.StoredWordIsFetched := by
  intro rs1 offset low s t hp h
  obtain ⟨u, hu, rfl⟩ := map_ok (finish_next h)
  obtain ⟨ha, _, hput⟩ := State.writeWord_ok hu
  have hacc : u.advance.accessible (s.effective rs1 offset) .word = true :=
    State.accessible_of_plain hp (by simp [hput]) ha (List.Subset.refl _)
  refine (State.fetch_at hacc).trans ?_
  rw [State.advance_wordAt, hput, State.putWord_wordAt]

/-- R54: the parts of an aligned word that a halfword access reaches are aligned for it. -/
theorem alignedFor_half_of_word {a : Word} (h : alignedFor a .word = true) :
    alignedFor a .half = true ∧ alignedFor (a + 2#32) .half = true := by
  simp only [alignedFor_iff, Width.bytes] at h ⊢
  bv_omega

/-- R51: after a word is put in little-endian order, the halfword at its start is its low one, and the halfword two
bytes further its high one. -/
theorem State.putWord_halfAt {s : State} (h : s.cfg.byteOrder = .little) (a v : Word) :
    (s.putWord a v).halfAt a = v.extractLsb' 0 16 ∧ (s.putWord a v).halfAt (a + 2#32) = v.extractLsb' 16 16 := by
  obtain ⟨h0, h1, h2, h3⟩ := State.putWord_byteAt s a v
  have h3' : (s.putWord a v).byteAt (a + 2#32 + 1#32) = byteOfWord s.cfg.byteOrder v 3 := by
    rw [BitVec.add_assoc]
    exact h3
  simp only [State.halfAt, State.putWord_cfg, h0, h1, h2, h3', h, joinHalf, byteOfWord]
  exact ⟨BitVec.extractLsb'_append_extractLsb'_eq_extractLsb' rfl,
    BitVec.extractLsb'_append_extractLsb'_eq_extractLsb' rfl⟩

/-- Settles O54: each part's access lies inside the word's, and the word's bytes are where the write put them. -/
theorem mixedWidthAccessesSeeTheSameBytes : Obligations.MixedWidthAccessesSeeTheSameBytes := by
  intro s t a v ho hp h
  obtain ⟨ha, _, rfl⟩ := State.writeWord_ok h
  obtain ⟨hlow, hhigh⟩ := alignedFor_half_of_word ha
  obtain ⟨h0, h1, h2, h3⟩ := State.putWord_byteAt ((s.noteWrite a .word v).latchAddr a) a v
  obtain ⟨hh0, hh2⟩ := State.putWord_halfAt (s := (s.noteWrite a .word v).latchAddr a) ho a v
  have hbyte (b : Word) (hb : b ∈ accessBytes a .word) :
      (((s.noteWrite a .word v).latchAddr a).putWord a v).accessible b .byte = true :=
    State.accessible_of_plain hp (by simp) ((alignedFor_iff b .byte).mpr (Nat.mod_one _))
      (by simpa [accessBytes] using hb)
  have hhalf (b : Word) (hb : alignedFor b .half = true) (hsub : accessBytes b .half ⊆ accessBytes a .word) :
      (((s.noteWrite a .word v).latchAddr a).putWord a v).accessible b .half = true :=
    State.accessible_of_plain hp (by simp) hb hsub
  rw [State.readByte_accessible (hbyte a (by simp [accessBytes])),
    State.readByte_accessible (hbyte (a + 1#32) (by simp [accessBytes])),
    State.readByte_accessible (hbyte (a + 2#32) (by simp [accessBytes])),
    State.readByte_accessible (hbyte (a + 3#32) (by simp [accessBytes])),
    State.readHalf_accessible (hhalf a hlow (by simp [accessBytes])),
    State.readHalf_accessible (hhalf (a + 2#32) hhigh (by simp [accessBytes, BitVec.add_assoc])),
    h0, h1, h2, h3, hh0, hh2]
  simp [ho, byteOfWord]

/-! ## Accesses that touch a device -/

/-- R52, R53: an access that touches a device passes the checks, so what follows them happens. -/
theorem State.map_checkAccess_device {α : Type} {s : State} {a : Word} {w : Width} (h : TouchesDevice a w s)
    (f : Unit → α) : (s.checkAccess a w).map f = .ok (f ()) := by
  obtain ⟨ha, hb, _⟩ := h
  rw [State.checkAccess_of_backed ((alignedFor_iff a w).mpr ha) hb]
  rfl

/-- R58: a read that touches a device uses its answer up. -/
theorem State.noteRead_device {s : State} {a : Word} {w : Width} (h : TouchesDevice a w s) :
    s.noteRead a w =
      { s with free := s.free + 1, io := if s.readEffects a w then .read a w :: s.io else s.io } := by
  obtain ⟨_, _, hdev⟩ := h
  simp [State.noteRead, hdev]

/-- Settles O38: the fetch gets the word that the bytes answer, and notes its read. -/
theorem deviceFetchResults : Obligations.DeviceFetchResults := by
  intro s h
  have hfetch : s.fetch = .ok (s.answerWord s.pc) := State.map_checkAccess_device h _
  cases hd : decode (s.answerWord s.pc) with
  | error e => exact step_of_illegal hfetch hd
  | ok i =>
    rw [step_of_decode hfetch hd, State.noteRead_device h]
    rfl

/-- A load of the value that an access to a device got completes, and does what `DeviceLoad` says. -/
theorem deviceLoad_of_load {i : Instr} {s : State} {rd : Reg} {a v : Word} {w : Width} {r : Except Fault Word}
    (h : TouchesDevice a w s) (hi : exec i s = s.load rd a w r) (hr : r = .ok v) : DeviceLoad i rd a w v s := by
  subst hr
  have hfree : (s.noteRead a w).free = s.free + 1 := by rw [State.noteRead_device h]
  exact ⟨((s.noteRead a w).latchAddr a).writeBack rd v, hi, by simp, fun r => by simp [State.writeBack_x],
    fun _ => by simp, by simp, by simp, by simp [hfree], by simp [SeenRead, State.noteRead]⟩

/-- R222: where the stack pointer stays, LWSP is a load of the destination. -/
theorem exec_lwsp_unchanged {s : State} (h : s.cfg.spAdjust = .unchanged) (uimm : BitVec 6) (reg : BitVec 5) :
    exec (.lwsp uimm reg) s =
      s.load (popRd s.cfg uimm reg) (s.popAddr uimm reg) .word (s.readWord (s.popAddr uimm reg)) := by
  simp [exec, execLwsp, State.load, State.popWrite, State.writeBack, h]

/-- R58: LWSP at an address that touches a device completes and notes its read, wherever the stack pointer goes. -/
theorem exec_lwsp_device {s : State} {uimm : BitVec 6} {reg : BitVec 5}
    (h : TouchesDevice (s.popAddr uimm reg) .word s) :
    ∃ t, exec (.lwsp uimm reg) s = .next t ∧ t.pc = s.pc + 4#32 ∧ SameMemory s t ∧ t.csrs = s.csrs ∧
      t.cfg = s.cfg ∧ SeenRead (s.popAddr uimm reg) .word s t := by
  have hread : s.readWord (s.popAddr uimm reg) = .ok _ := State.map_checkAccess_device h _
  refine ⟨_, by rw [exec, execLwsp, hread]; rfl, by simp, fun _ => by simp, by simp, by simp, ?_⟩
  obtain ⟨_, _, _, _, _, hio⟩ := State.popWrite_frame
    ((s.noteRead (s.popAddr uimm reg) .word).latchAddr (s.popAddr uimm reg)) (popRd s.cfg uimm reg)
    (s.answerWord (s.popAddr uimm reg))
  exact hio

/-- Settles O36: every load is the shared load of what the access got. -/
theorem deviceLoadResults : Obligations.DeviceLoadResults := by
  intro rd rs1 offset uimm s a ha
  obtain rfl : a = s.effective rs1 offset := ha
  refine ⟨fun b hb => by simp [State.answer, hb], fun ho => ?_, fun h => ?_, fun h => ?_, fun h => ?_,
    fun h => ⟨fun hsp => ?_, exec_lwsp_device h⟩⟩
  · simp [State.answerHalf, State.answerWord, ho, joinHalf, joinWord]
  · have hread : s.readByte (s.effective rs1 offset) = .ok _ := State.map_checkAccess_device h _
    exact ⟨⟨_, BitVec.toInt_signExtend_of_le (by decide), deviceLoad_of_load h rfl (congrArg _ hread)⟩,
      ⟨_, BitVec.toNat_setWidth_of_le (by decide), deviceLoad_of_load h rfl (congrArg _ hread)⟩⟩
  · have hread : s.readHalf (s.effective rs1 offset) = .ok _ := State.map_checkAccess_device h _
    exact ⟨⟨_, BitVec.toInt_signExtend_of_le (by decide), deviceLoad_of_load h rfl (congrArg _ hread)⟩,
      ⟨_, BitVec.toNat_setWidth_of_le (by decide), deviceLoad_of_load h rfl (congrArg _ hread)⟩⟩
  · exact deviceLoad_of_load h rfl (State.map_checkAccess_device h _)
  · exact deviceLoad_of_load h (exec_lwsp_unchanged hsp uimm rd) (State.map_checkAccess_device h _)

/-- R11: writing a register its own value changes nothing. -/
theorem State.setX_self (s : State) (i : Reg) : s.setX i (s.x i) = s := by
  by_cases hi : i = 0#5 <;> simp [State.setX, State.x, hi]

/-- R223: the stack pointer after SWSP. -/
theorem pushSp_eq (p : Config.Params) (sp : Word) :
    pushSp p sp = if p.spAdjust = .unchanged then sp else sp - 4#32 := by
  cases h : p.spAdjust <;> simp [pushSp, h]

/-- R53, R58: a store at an address that touches a device, from the state `u` after its note and its bytes: then x[2]
takes `sp` and the pc advances. -/
theorem deviceStore_of_write {i : Instr} {s u : State} {a v sp : Word} {w : Width} {stored : State → Prop}
    (h : TouchesDevice a w s) (hi : exec i s = .next (u.setX 2#5 sp).advance)
    (hu : u.pc = s.pc ∧ u.regs = s.regs ∧ u.csrs = s.csrs ∧ u.cfg = s.cfg ∧ u.free = s.free ∧
      u.io = (s.noteWrite a w v).io) (hout : SameMemoryOutside a w s u)
    (hstored : stored (u.setX 2#5 sp).advance) : DeviceStore i a w v sp stored s := by
  obtain ⟨_, _, hdev⟩ := h
  obtain ⟨hpc, hregs, hcsrs, hcfg, hfree, hio⟩ := hu
  exact ⟨_, hi, by simp [hpc], fun r => by simp [State.setX_x, State.x_congr hregs], hstored,
    fun b hb => by simpa using hout b hb, by simp [hcsrs], by simp [hcfg], by simp [hfree],
    by simp [hio, State.noteWrite, hdev]⟩

/-- The three stores end as SWSP does, with x[2] written its own value. -/
theorem finish_store {r : Except Fault State} {u s : State} (h : r = .ok u) (hregs : u.regs = s.regs) :
    finish (r.map State.advance) = .next (u.setX 2#5 (s.x 2#5)).advance := by
  rw [← State.x_congr hregs, State.setX_self, h]
  rfl

theorem exec_swsp_of_write {s u : State} {uimm : BitVec 6} {reg : Reg}
    (h : s.writeWord (s.pushAddr uimm) (s.x reg) = .ok u) :
    exec (.swsp uimm reg) s = .next (u.setX 2#5 (pushSp s.cfg (s.x 2#5))).advance := by
  rw [exec, execSwsp, h]
  rfl

/-- A field of the low bits, zero-extended, is the word under the field's mask. -/
theorem zeroExtend_extractLsb' (v : Word) (n : Nat) :
    (v.extractLsb' 0 n).zeroExtend 32 = v &&& (BitVec.allOnes n).zeroExtend 32 := by
  refine BitVec.eq_of_getLsbD_eq fun k hk => ?_
  simp [hk, Bool.and_comm]

/-- Settles O37: each of the four is a write that passes the checks, and a move of x[2], by its own value for the three
stores. -/
theorem deviceStoreResults : Obligations.DeviceStoreResults := by
  intro rs1 offset low uimm s a v ha hv
  obtain rfl : a = s.effective rs1 offset := ha
  subst hv
  refine ⟨fun h => ?_, fun h => ?_, fun h => ?_, fun h => ?_⟩
  · have hwrite : s.writeByte (s.effective rs1 offset) ((s.x (storeRs2 s.cfg offset low)).extractLsb' 0 8) = .ok _ :=
      State.map_checkAccess_device h _
    have hval : _ = s.x (storeRs2 s.cfg offset low) &&& 0xFF#32 := zeroExtend_extractLsb' _ 8
    rw [← hval]
    exact deviceStore_of_write h (finish_store hwrite (by simp)) (by simp) (State.putByte_read_outside _ _ _)
      (by simp [State.putByte_byteAt])
  · have hwrite : s.writeHalf (s.effective rs1 offset) ((s.x (storeRs2 s.cfg offset low)).extractLsb' 0 16) = .ok _ :=
      State.map_checkAccess_device h _
    have hval : _ = s.x (storeRs2 s.cfg offset low) &&& 0xFFFF#32 := zeroExtend_extractLsb' _ 16
    rw [← hval]
    exact deviceStore_of_write h (finish_store hwrite (by simp)) (by simp) (State.putHalf_read_outside _ _ _)
      (by simp [State.putHalf_halfAt])
  · have hwrite : s.writeWord (s.effective rs1 offset) (s.x (storeRs2 s.cfg offset low)) = .ok _ :=
      State.map_checkAccess_device h _
    exact deviceStore_of_write h (finish_store hwrite (by simp)) (by simp) (State.putWord_read_outside _ _ _)
      (by simp [State.putWord_wordAt])
  · have hwrite : s.writeWord (s.pushAddr uimm) (s.x low) = .ok _ := State.map_checkAccess_device h _
    rw [← pushSp_eq]
    exact deviceStore_of_write h (exec_swsp_of_write hwrite) (by simp) (State.putWord_read_outside _ _ _)
      (by simp [State.putWord_wordAt])

end Sys2Proof.Machine
end


section
/-! PROOFS. The statements on the encoding (spec/30_encoding.md): the decoder and the encoder as inverses (O5, O6), the
opcode map (O7), the layouts of the stack displacement (O33), and words written out from the formats (O4). -/

namespace Sys2Proof.Machine

/-! ## The decoder, by the opcode -/

/-- R108: a word whose opcode ends in 11 is read in the formats of 32 bits. -/
theorem decode_wide {w : Word} {op : BitVec 7} (hop : fOpcode w = op) (h : op.extractLsb' 0 2 = 0b11#2) :
    decode w = decodeWide w := by
  have hq : bits w 0 2 = 0b11#2 := by rw [quadrant_of_fOpcode, hop, h]
  simp [decode, hq]

theorem decode_lui {w : Word} (h : fOpcode w = 0b0110111#7) : decode w = .ok (.lui (fRd w) (fImm20 w)) := by
  simp [decode_wide h rfl, decodeWide, h]

theorem decode_auipc {w : Word} (h : fOpcode w = 0b0010111#7) : decode w = .ok (.auipc (fRd w) (fImm20 w)) := by
  simp [decode_wide h rfl, decodeWide, h]

theorem decode_jal {w : Word} (h : fOpcode w = 0b1101111#7) : decode w = .ok (.jal (fRd w) (fOffsetJ w)) := by
  simp [decode_wide h rfl, decodeWide, h]

theorem decode_jalr {w : Word} (h : fOpcode w = 0b1100111#7) (h3 : fFunct3 w = 0b000#3) :
    decode w = .ok (.jalr (fRd w) (fRs1 w) (fImm12 w)) := by
  simp [decode_wide h rfl, decodeWide, h, select, h3]

theorem decode_branch {w : Word} (h : fOpcode w = 0b1100011#7) : decode w = decodeBranch w := by
  simp [decode_wide h rfl, decodeWide, h]

theorem decode_load {w : Word} (h : fOpcode w = 0b0000011#7) : decode w = decodeLoad w := by
  simp [decode_wide h rfl, decodeWide, h]

theorem decode_store {w : Word} (h : fOpcode w = 0b0100011#7) : decode w = decodeStore w := by
  simp [decode_wide h rfl, decodeWide, h]

theorem decode_opImm {w : Word} (h : fOpcode w = 0b0010011#7) : decode w = decodeOpImm w := by
  simp [decode_wide h rfl, decodeWide, h]

theorem decode_opReg {w : Word} (h : fOpcode w = 0b0110011#7) : decode w = decodeOpReg w := by
  simp [decode_wide h rfl, decodeWide, h]

theorem decode_system {w : Word} (h : fOpcode w = 0b1110011#7) : decode w = decodeSystem w := by
  simp [decode_wide h rfl, decodeWide, h]

theorem decode_stack {w : Word} (hq : bits w 0 2 = 0b10#2) : decode w = decodeStack w := by
  simp [decode, hq]

/-! ## Decoding what the encoder writes, format by format -/

theorem encR_reads (f7 : BitVec 7) (rs2 rs1 : Reg) (f3 : BitVec 3) (rd : Reg) (op : BitVec 7) :
    fFunct7 (encR f7 rs2 rs1 f3 rd op) = f7 ∧ fFunct3 (encR f7 rs2 rs1 f3 rd op) = f3 ∧
    fRd (encR f7 rs2 rs1 f3 rd op) = rd ∧ fRs1 (encR f7 rs2 rs1 f3 rd op) = rs1 ∧
    fRs2 (encR f7 rs2 rs1 f3 rd op) = rs2 :=
  ⟨encR_fFunct7 .., encR_fFunct3 .., encR_fRd .., encR_fRs1 .., encR_fRs2 ..⟩

theorem encI_reads (imm : BitVec 12) (rs1 : Reg) (f3 : BitVec 3) (rd : Reg) (op : BitVec 7) :
    fFunct3 (encI imm rs1 f3 rd op) = f3 ∧ fRd (encI imm rs1 f3 rd op) = rd ∧
    fRs1 (encI imm rs1 f3 rd op) = rs1 ∧ fImm12 (encI imm rs1 f3 rd op) = imm :=
  ⟨encI_fFunct3 .., encI_fRd .., encI_fRs1 .., encI_fImm12 ..⟩

theorem encShift_reads (u : BitVec 6) {shamt : BitVec 6} (h : validShamt shamt = true) (rs1 : Reg) (f3 : BitVec 3)
    (rd : Reg) :
    fFunct7 (encShift u shamt rs1 f3 rd) = u ++ 0#1 ∧ fFunct3 (encShift u shamt rs1 f3 rd) = f3 ∧
    fRd (encShift u shamt rs1 f3 rd) = rd ∧ fRs1 (encShift u shamt rs1 f3 rd) = rs1 ∧
    fShamt (encShift u shamt rs1 f3 rd) = shamt :=
  ⟨encShift_fFunct7 u h .., encShift_fFunct3 .., encShift_fRd .., encShift_fRs1 .., encShift_fShamt ..⟩

theorem encB_reads {offset : BitVec 13} (h : evenOffset offset = true) (rs2 rs1 : Reg) (f3 : BitVec 3) :
    fFunct3 (encB offset rs2 rs1 f3) = f3 ∧ fRs1 (encB offset rs2 rs1 f3) = rs1 ∧
    fRs2 (encB offset rs2 rs1 f3) = rs2 ∧ fOffsetB (encB offset rs2 rs1 f3) = offset :=
  ⟨encB_fFunct3 .., encB_fRs1 .., encB_fRs2 .., encB_fOffsetB h ..⟩

/-- Settles O5: the opcode of the encoded word selects the part of the decoder, its function code the entry, and each
operand is read back from the field that it was laid out in. -/
theorem decodeOfEncodeIsTheInstruction : Obligations.DecodeOfEncodeIsTheInstruction := by
  intro i hwf
  cases i
  case lui => rw [encode, decode_lui (encU_fOpcode ..), encU_fRd, encU_fImm20]
  case auipc => rw [encode, decode_auipc (encU_fOpcode ..), encU_fRd, encU_fImm20]
  case jal => rw [encode, decode_jal (encJ_fOpcode ..), encJ_fRd, encJ_fOffsetJ hwf]
  case jalr =>
    rw [encode, decode_jalr (encI_fOpcode ..) (encI_fFunct3 ..), encI_fRd, encI_fRs1, encI_fImm12]
  case beq | bne | blt | bge | bltu | bgeu =>
    rw [encode, decode_branch (encB_fOpcode ..)]
    simp [decodeBranch, select, encB_reads hwf]
  case lb | lh | lw | lbu | lhu =>
    rw [encode, decode_load (encI_fOpcode ..)]
    simp [decodeLoad, select, encI_reads]
  case sb | sh | sw =>
    rw [encode, decode_store (encI_fOpcode ..)]
    simp [decodeStore, select, encI_reads]
  case addi | slti | sltiu | xori | ori | andi =>
    rw [encode, decode_opImm (encI_fOpcode ..)]
    simp [decodeOpImm, select, encI_reads]
  case slli | srli | srai =>
    rw [encode, decode_opImm (encShift_fOpcode ..)]
    simp [decodeOpImm, select, encShift_reads _ hwf]
  case add | sub | sll | slt | sltu | xor | srl | sra | or | and | mul =>
    rw [encode, decode_opReg (encR_fOpcode ..)]
    simp [decodeOpReg, select, encR_reads]
  case csrrw | csrrs | csrrc | csrrwi | csrrsi | csrrci =>
    rw [encode, decode_system (encI_fOpcode ..)]
    simp [decodeSystem, select, encI_reads]
  case swsp | lwsp =>
    rw [encode, decode_stack (encStack_quadrant ..)]
    simp [decodeStack, select, encStack_upper, encStack_fStackFunct3, encStack_fUimm, encStack_fReg]

/-! ## What a word decodes to, encoded -/

/-- The instruction is one whose encoding is the word. -/
def EncodesTo (i : Instr) (w : Word) : Prop := encode i = w ∧ i.wellFormed = true

/-- I format, CSR variant and stores: entries laid out with the funct3 that selects them. -/
theorem select_encI {w : Word} {i : Instr} {why : Illegal} {op : BitVec 7} {l : List (BitVec 3 × Instr)}
    (hop : fOpcode w = op) (h : select (fFunct3 w) why l = .ok i)
    (hl : ∀ p ∈ l, encode p.2 = encI (fImm12 w) (fRs1 w) p.1 (fRd w) op ∧ p.2.wellFormed = true) : EncodesTo i w := by
  obtain ⟨he, hwf⟩ := hl _ (select_ok h)
  exact ⟨by rw [he, ← hop, encI_fields], hwf⟩

/-- B format: entries laid out with the funct3 that selects them, at the word's offset. -/
theorem select_encB {w : Word} {i : Instr} {why : Illegal} {l : List (BitVec 3 × Instr)}
    (hop : fOpcode w = 0b1100011#7) (h : select (fFunct3 w) why l = .ok i)
    (hl : ∀ p ∈ l, encode p.2 = encB (fOffsetB w) (fRs2 w) (fRs1 w) p.1 ∧
      p.2.wellFormed = evenOffset (fOffsetB w)) : EncodesTo i w := by
  obtain ⟨he, hwf⟩ := hl _ (select_ok h)
  exact ⟨by rw [he, encB_fields hop], by rw [hwf, fOffsetB_even]⟩

/-- I format, shift variant: entries laid out with the funct7 that selects them, whose bit 0 is bit 5 of the shift
amount (R84, R180). -/
theorem select_encShift {w : Word} {i : Instr} {why : Illegal} {l : List (BitVec 7 × Instr)}
    (hop : fOpcode w = 0b0010011#7) (h : select (fFunct7 w) why l = .ok i)
    (hl : ∀ p ∈ l, encode p.2 = encShift (p.1.extractLsb' 1 6) (fShamt w) (fRs1 w) (fFunct3 w) (fRd w) ∧
      p.2.wellFormed = validShamt (fShamt w) ∧ p.1.getLsbD 0 = false) : EncodesTo i w := by
  obtain ⟨he, hwf, h25⟩ := hl _ (select_ok h)
  obtain ⟨hupper, hshamt⟩ := shift_fields w
  exact ⟨by rw [he, ← hupper, encShift_fields hop], by rw [hwf, validShamt, hshamt, h25]; rfl⟩

/-- R format: entries laid out with the funct7 and the funct3 that select them. -/
theorem select_encR {w : Word} {i : Instr} {why : Illegal} {l : List (BitVec 10 × Instr)}
    (hop : fOpcode w = 0b0110011#7) (h : select (fFunct7 w ++ fFunct3 w : BitVec 10) why l = .ok i)
    (hl : ∀ p ∈ l, encode p.2 =
      encR (p.1.extractLsb' 3 7) (fRs2 w) (fRs1 w) (p.1.extractLsb' 0 3) (fRd w) 0b0110011#7 ∧
      p.2.wellFormed = true) : EncodesTo i w := by
  obtain ⟨he, hwf⟩ := hl _ (select_ok h)
  have h7 : (fFunct7 w ++ fFunct3 w : BitVec 10).extractLsb' 3 7 = fFunct7 w :=
    (bits_of_high _ _ (by decide)).trans BitVec.extractLsb'_eq_self
  have h3 : (fFunct7 w ++ fFunct3 w : BitVec 10).extractLsb' 0 3 = fFunct3 w :=
    (bits_of_low _ _ (by decide)).trans BitVec.extractLsb'_eq_self
  exact ⟨by rw [he, h7, h3, ← hop, encR_fields], hwf⟩

theorem decodeOpImm_encodesTo {w : Word} {i : Instr} (hop : fOpcode w = 0b0010011#7) (h : decodeOpImm w = .ok i) :
    EncodesTo i w := by
  unfold decodeOpImm at h
  split_ifs at h with h1 h5
  · exact select_encShift hop h (by simp [encode, Instr.wellFormed, h1])
  · exact select_encShift hop h (by simp [encode, Instr.wellFormed, h5])
  · exact select_encI hop h (by simp [encode, Instr.wellFormed])

theorem decodeStack_encodesTo {w : Word} {i : Instr} (hq : bits w 0 2 = 0b10#2) (h : decodeStack w = .ok i) :
    EncodesTo i w := by
  unfold decodeStack at h
  split_ifs at h with hupper
  have hlist : ∀ p ∈ [(0b110#3, Instr.swsp (fUimm w) (fReg w)), (0b010#3, .lwsp (fUimm w) (fReg w))],
      encode p.2 = encStack p.1 (fUimm w) (fReg w) ∧ p.2.wellFormed = true := by simp [encode, Instr.wellFormed]
  obtain ⟨he, hwf⟩ := hlist _ (select_ok h)
  exact ⟨by rw [he, encStack_fields hupper hq], hwf⟩

theorem decodeWide_encodesTo {w : Word} {i : Instr} (h : decodeWide w = .ok i) : EncodesTo i w := by
  unfold decodeWide at h
  split_ifs at h with hlui hauipc hjal hjalr hbranch hload hstore hopImm hopReg hsystem
  · cases h
    exact ⟨by rw [encode, ← hlui, encU_fields], rfl⟩
  · cases h
    exact ⟨by rw [encode, ← hauipc, encU_fields], rfl⟩
  · cases h
    exact ⟨encJ_fields hjal, fOffsetJ_even w⟩
  · exact select_encI hjalr h (by simp [encode, Instr.wellFormed])
  · exact select_encB hbranch h (by simp [encode, Instr.wellFormed])
  · exact select_encI hload h (by simp [encode, Instr.wellFormed])
  · exact select_encI hstore h (by simp [encode, Instr.wellFormed])
  · exact decodeOpImm_encodesTo hopImm h
  · exact select_encR hopReg h (by simp [encode, Instr.wellFormed])
  · exact select_encI hsystem h (by simp [encode, Instr.wellFormed])

/-- Settles O6: in every format the word is the layout of its own fields, and the codes that select an entry of the
decoder are the ones that its encoding carries. -/
theorem encodeOfDecodeIsTheWord : Obligations.EncodeOfDecodeIsTheWord := by
  intro w i h
  unfold decode at h
  split_ifs at h with hstack hwide
  · exact decodeStack_encodesTo hstack h
  · exact decodeWide_encodesTo h

/-! ## The rows of the opcode map -/

open Laws in
/-- R100: the word of every well-formed instruction matches the instruction's row. -/
theorem encode_matches_row (i : Instr) : EncodingRow.Statement i :=
  match i with
  | .lui .. => EncodingRow.lui _ _ | .auipc .. => EncodingRow.auipc _ _ | .jal .. => EncodingRow.jal _ _
  | .jalr .. => EncodingRow.jalr _ _ _ | .beq .. => EncodingRow.beq _ _ _ | .bne .. => EncodingRow.bne _ _ _
  | .blt .. => EncodingRow.blt _ _ _ | .bge .. => EncodingRow.bge _ _ _ | .bltu .. => EncodingRow.bltu _ _ _
  | .bgeu .. => EncodingRow.bgeu _ _ _ | .lb .. => EncodingRow.lb _ _ _ | .lh .. => EncodingRow.lh _ _ _
  | .lw .. => EncodingRow.lw _ _ _ | .lbu .. => EncodingRow.lbu _ _ _ | .lhu .. => EncodingRow.lhu _ _ _
  | .sb .. => EncodingRow.sb _ _ _ | .sh .. => EncodingRow.sh _ _ _ | .sw .. => EncodingRow.sw _ _ _
  | .addi .. => EncodingRow.addi _ _ _ | .slti .. => EncodingRow.slti _ _ _ | .sltiu .. => EncodingRow.sltiu _ _ _
  | .xori .. => EncodingRow.xori _ _ _ | .ori .. => EncodingRow.ori _ _ _ | .andi .. => EncodingRow.andi _ _ _
  | .slli .. => EncodingRow.slli _ _ _ | .srli .. => EncodingRow.srli _ _ _ | .srai .. => EncodingRow.srai _ _ _
  | .add .. => EncodingRow.add _ _ _ | .sub .. => EncodingRow.sub _ _ _ | .sll .. => EncodingRow.sll _ _ _
  | .slt .. => EncodingRow.slt _ _ _ | .sltu .. => EncodingRow.sltu _ _ _ | .xor .. => EncodingRow.xor _ _ _
  | .srl .. => EncodingRow.srl _ _ _ | .sra .. => EncodingRow.sra _ _ _ | .or .. => EncodingRow.or _ _ _
  | .and .. => EncodingRow.and _ _ _ | .csrrw .. => EncodingRow.csrrw _ _ _ | .csrrs .. => EncodingRow.csrrs _ _ _
  | .csrrc .. => EncodingRow.csrrc _ _ _ | .csrrwi .. => EncodingRow.csrrwi _ _ _
  | .csrrsi .. => EncodingRow.csrrsi _ _ _ | .csrrci .. => EncodingRow.csrrci _ _ _
  | .mul .. => EncodingRow.mul _ _ _ | .swsp .. => EncodingRow.swsp _ _ | .lwsp .. => EncodingRow.lwsp _ _

/-- Under a mask that covers a field, a word that matches has the pattern's field. -/
theorem bits_of_masked {w m p : Word} (h : w &&& m = p) {lo len : Nat} (hm : bits m lo len = BitVec.allOnes len) :
    bits w lo len = bits p lo len := by
  rw [← h, bits_and, hm, BitVec.and_allOnes]

theorem fields_of_mask_op {w p : Word} (h : w &&& 0x0000007F#32 = p) : fOpcode w = fOpcode p :=
  bits_of_masked h rfl

theorem fields_of_mask_op_funct3 {w p : Word} (h : w &&& 0x0000707F#32 = p) :
    fOpcode w = fOpcode p ∧ fFunct3 w = fFunct3 p :=
  ⟨bits_of_masked h rfl, bits_of_masked h rfl⟩

theorem fields_of_mask_functs {w p : Word} (h : w &&& 0xFE00707F#32 = p) :
    fOpcode w = fOpcode p ∧ fFunct3 w = fFunct3 p ∧ fFunct7 w = fFunct7 p :=
  ⟨bits_of_masked h rfl, bits_of_masked h rfl, bits_of_masked h rfl⟩

theorem fields_of_mask_stack {w p : Word} (h : w &&& 0xFFFFE003#32 = p) :
    bits w 0 2 = bits p 0 2 ∧ bits w 16 16 = bits p 16 16 ∧ fStackFunct3 w = fStackFunct3 p :=
  ⟨bits_of_masked h rfl, bits_of_masked h rfl, bits_of_masked h rfl⟩

/-- A word that matches the row decodes to an instruction of the row's mnemonic. -/
def RowDecodes (row : OpRow) : Prop :=
  ∀ w : Word, w &&& row.mask = row.pattern → ∃ i, decode w = .ok i ∧ i.mnemonic = row.mnemonic

/-- A row that covers the opcode and funct3, by the part of the decoder that its opcode selects. -/
theorem rowDecodes_funct3 {n : String} {p : Word} {part : Word → Except Illegal Instr}
    (hpart : ∀ {w}, fOpcode w = fOpcode p → decode w = part w)
    (hrow : ∀ w, fFunct3 w = fFunct3 p → ∃ i, part w = .ok i ∧ i.mnemonic = n) : RowDecodes ⟨n, 0x0000707F#32, p⟩ := by
  intro w h
  obtain ⟨hop, h3⟩ := fields_of_mask_op_funct3 h
  rw [hpart hop]
  exact hrow w h3

/-- A row that covers funct7 too. -/
theorem rowDecodes_functs {n : String} {p : Word} {part : Word → Except Illegal Instr}
    (hpart : ∀ {w}, fOpcode w = fOpcode p → decode w = part w)
    (hrow : ∀ w, fFunct3 w = fFunct3 p → fFunct7 w = fFunct7 p → ∃ i, part w = .ok i ∧ i.mnemonic = n) :
    RowDecodes ⟨n, 0xFE00707F#32, p⟩ := by
  intro w h
  obtain ⟨hop, h3, h7⟩ := fields_of_mask_functs h
  rw [hpart hop]
  exact hrow w h3 h7

/-- Each row of the opcode map, in the part of the decoder that holds its instruction. -/
theorem rowDecodes_of_mem : ∀ row ∈ opcodeMap, RowDecodes row := by
  simp only [opcodeMap, List.forall_mem_append, List.forall_mem_cons, List.not_mem_nil, false_imp_iff, implies_true,
    and_true]
  refine ⟨⟨⟨⟨⟨⟨⟨⟨?lui, ?auipc, ?jal, ?jalr⟩, ?branches⟩, ?loads⟩, ?stores⟩, ?opImm⟩, ?opReg⟩, ?system⟩, ?stack⟩
  case lui => exact fun w h => ⟨_, decode_lui (fields_of_mask_op h), rfl⟩
  case auipc => exact fun w h => ⟨_, decode_auipc (fields_of_mask_op h), rfl⟩
  case jal => exact fun w h => ⟨_, decode_jal (fields_of_mask_op h), rfl⟩
  case jalr =>
    intro w h
    obtain ⟨hop, h3⟩ := fields_of_mask_op_funct3 h
    exact ⟨_, decode_jalr hop h3, rfl⟩
  case branches =>
    refine ⟨?_, ?_, ?_, ?_, ?_, ?_⟩ <;>
      exact rowDecodes_funct3 decode_branch fun w h3 => ⟨_, by rw [decodeBranch, h3]; rfl, rfl⟩
  case loads =>
    refine ⟨?_, ?_, ?_, ?_, ?_⟩ <;>
      exact rowDecodes_funct3 decode_load fun w h3 => ⟨_, by rw [decodeLoad, h3]; rfl, rfl⟩
  case stores =>
    refine ⟨?_, ?_, ?_⟩ <;>
      exact rowDecodes_funct3 decode_store fun w h3 => ⟨_, by rw [decodeStore, h3]; rfl, rfl⟩
  case opImm =>
    refine ⟨?_, ?_, ?_, ?_, ?_, ?_, ?slli, ?srli, ?srai⟩
    case slli | srli | srai =>
      exact rowDecodes_functs decode_opImm fun w h3 h7 => ⟨_, by rw [decodeOpImm, h3, h7]; rfl, rfl⟩
    all_goals exact rowDecodes_funct3 decode_opImm fun w h3 => ⟨_, by rw [decodeOpImm, h3]; rfl, rfl⟩
  case opReg =>
    refine ⟨?_, ?_, ?_, ?_, ?_, ?_, ?_, ?_, ?_, ?_, ?_⟩ <;>
      exact rowDecodes_functs decode_opReg fun w h3 h7 => ⟨_, by rw [decodeOpReg, h3, h7]; rfl, rfl⟩
  case system =>
    refine ⟨?_, ?_, ?_, ?_, ?_, ?_⟩ <;>
      exact rowDecodes_funct3 decode_system fun w h3 => ⟨_, by rw [decodeSystem, h3]; rfl, rfl⟩
  case stack =>
    refine ⟨?_, ?_⟩ <;>
      intro w h <;>
      obtain ⟨hq, hupper, h3⟩ := fields_of_mask_stack h <;>
      exact ⟨_, by rw [decode_stack hq, decodeStack, hupper, h3]; rfl, rfl⟩

theorem opcodeMap_mnemonics_distinct : opcodeMap.Pairwise fun a b => a.mnemonic ≠ b.mnemonic := by decide

/-- Settles O7: a matching word decodes by the fields that the mask covers; a word that decodes is its instruction's
encoding, which matches the row. Rows that shared a word would name one instruction, and their mnemonics differ. -/
theorem wordIsInstructionIffItMatchesItsRow : Obligations.WordIsInstructionIffItMatchesItsRow := by
  refine ⟨fun row hrow w => ⟨rowDecodes_of_mem row hrow w, fun ⟨i, hi, hname⟩ => ?_⟩, ?_⟩
  · obtain ⟨hw, hwf⟩ := encodeOfDecodeIsTheWord w i hi
    exact hw ▸ encode_matches_row i row hrow hname.symm hwf
  · refine opcodeMap_mnemonics_distinct.imp_of_mem fun ha hb hne w ⟨hwa, hwb⟩ => hne ?_
    obtain ⟨i, hi, hia⟩ := rowDecodes_of_mem _ ha w hwa
    obtain ⟨j, hj, hjb⟩ := rowDecodes_of_mem _ hb w hwb
    obtain rfl : i = j := Except.ok.inj (hi.symm.trans hj)
    exact hia.symm.trans hjb

/-! ## The stack displacement -/

theorem toNat_append_eq {m n : Nat} (a : BitVec m) (b : BitVec n) : (a ++ b).toNat = a.toNat * 2 ^ n + b.toNat := by
  rw [BitVec.toNat_append, ← Nat.shiftLeft_add_eq_or_of_lt b.isLt, Nat.shiftLeft_eq]

/-- Settles O33: the two parts of the field, put back in the other order, by their values. -/
theorem stackDisplacementLayouts : Obligations.StackDisplacementLayouts := by
  intro p uimm
  have hlt : uimm.toNat < 64 := uimm.isLt
  refine ⟨fun h => ?_, fun h => ?_, fun h => ?_⟩
  · have hhigh : uimm.toNat / 4 % 16 = uimm.toNat / 4 := Nat.mod_eq_of_lt (by omega)
    have hval : (pushUimm p uimm).toNat = uimm.toNat % 4 * 64 + uimm.toNat / 4 * 4 := by
      simp only [pushUimm, h, BitVec.toNat_setWidth, toNat_append_eq, BitVec.extractLsb'_toNat, BitVec.toNat_ofNat,
        Nat.shiftRight_eq_div_pow, Nat.reducePow, Nat.div_one, hhigh]
      omega
    omega
  · simp only [pushUimm, h, BitVec.toNat_setWidth]
    omega
  · subst h
    cases hp : p.spUimm <;> simp [pushUimm, hp]

/-! ## Words written out -/

/-- Settles O4, by running the decoder on each word. -/
theorem writtenWordsDecode : Obligations.WrittenWordsDecode :=
  ⟨rfl, rfl, rfl, rfl, rfl, rfl, rfl, rfl⟩

end Sys2Proof.Machine
end


section
/-! PROOFS. The statements on LUI and AUIPC (spec/40_upper_immediate.md): their results (O11), and that every
instruction that only computes completes and changes at most one register (O49). -/

namespace Sys2Proof.Machine

/-! ## The frame of an instruction with one result -/

/-- R11, R170, R185: the end that the computing instructions share writes the one result and advances the pc. -/
theorem State.writeBack_writesOnly (s : State) (rd : Reg) (v : Word) : WritesOnly rd v s (s.writeBack rd v) :=
  ⟨s.writeBack_pc rd v, s.writeBack_x rd v, fun a => by simp, by simp, by simp, by simp, by simp⟩

/-- R39: what a shift leaves in its block is not part of what `WritesOnly` compares. -/
theorem State.latchShift_writeBack_writesOnly (s : State) (k : ShiftKind) (u : Word) (rd : Reg) (v : Word) :
    WritesOnly rd v s ((s.latchShift k u).writeBack rd v) := by
  refine ⟨by simp, fun r => ?_, fun a => by simp, by simp, by simp, by simp, by simp⟩
  rw [State.writeBack_x, State.latchShift_x]

/-- R21: a write to x[0] is dropped, so that register too is as it was. -/
theorem WritesOnly.x_of_ne {rd : Reg} {v : Word} {s t : State} (h : WritesOnly rd v s t) {r : Reg} (hr : r ≠ rd) :
    t.x r = s.x r := by
  obtain ⟨_, hregs, _, _⟩ := h
  rw [hregs r, if_neg hr]
  by_cases h0 : r = 0#5
  · rw [if_pos h0, h0, State.x_zero]
  · rw [if_neg h0]

/-! ## LUI and AUIPC -/

/-- R120, R121: the immediate fills the upper 20 bits of the word. -/
theorem immU_toNat (imm : BitVec 20) : (immU imm).toNat = imm.toNat * 4096 := by
  rw [immU, toNat_append_eq, BitVec.toNat_ofNat]
  norm_num

/-- Settles O11: LUI's result is the shifted immediate, AUIPC's the pc plus it, so the shift is not of the sum. -/
theorem upperImmediateResults : Obligations.UpperImmediateResults := by
  refine fun rd imm s => ⟨rfl, rfl, ?lui, ?auipc⟩
  case lui => exact ⟨_, _, rfl, immU_toNat imm, s.writeBack_writesOnly rd _⟩
  case auipc =>
    have hsum : (s.pc + immU imm).toNat = (s.pc.toNat + imm.toNat * 4096) % 4294967296 := by
      rw [BitVec.toNat_add, immU_toNat]
    exact ⟨_, _, rfl, hsum, s.writeBack_writesOnly rd _⟩

/-! ## The instructions that only compute -/

/-- R180: an immediate shift that a word can carry is the shift that the register form makes too. -/
theorem State.shiftImm_valid {shamt : BitVec 6} (h : validShamt shamt = true) (s : State) (i : Instr) (k : ShiftKind)
    (rd rs1 : Reg) : s.shiftImm i k rd rs1 shamt = s.shift k rd (s.x rs1) (shamtAmount shamt) := by
  rw [State.shiftImm, if_pos h]

/-- R120, R170, R185, R215: only an immediate shift could stop, and well-formedness rules its one reason out. -/
theorem exec_compute_completes {i : Instr} (hi : i.kind = .compute) (hwf : i.wellFormed = true) (s : State) :
    ∃ t, exec i s = .next t := by
  cases i
  case lui | auipc | addi | slti | sltiu | xori | ori | andi | add | sub | slt | sltu | xor | or | and | mul =>
    exact ⟨_, rfl⟩
  case sll | srl | sra => exact ⟨_, rfl⟩
  case slli | srli | srai => exact ⟨_, State.shiftImm_valid hwf ..⟩
  all_goals cases hi

/-- A computing instruction writes one result, and every other shape belongs to another kind. -/
theorem ExecShape.writesOnly_of_compute {s t : State} {i : Instr} (h : ExecShape s i t) (hi : i.kind = .compute) :
    ∃ rd v, WritesOnly rd v s t := by
  cases h with
  | result rd v _ => exact ⟨rd, v, s.writeBack_writesOnly rd v⟩
  | shifted k rd v u _ => exact ⟨rd, v, s.latchShift_writeBack_writesOnly k u rd v⟩
  | passed hk | branched _ hk | jumped _ _ hk | loaded _ _ _ _ hk | storedByte _ _ hk | storedHalf _ _ hk
  | storedWord _ _ hk | csrWritten _ _ _ _ hk | pushed _ _ _ hk | popped _ _ _ hk => simp [hi] at hk

/-- Settles O49: the instruction completes, in a shape that writes one result. -/
theorem computeInstructionsAlwaysComplete : Obligations.ComputeInstructionsAlwaysComplete := by
  intro i s hi hwf
  obtain ⟨t, hexec⟩ := exec_compute_completes hi hwf s
  obtain ⟨rd, v, hwrites⟩ := (exec_shape hexec).writesOnly_of_compute hi
  have hothers : ∀ r, r ≠ rd → t.x r = s.x r := fun _ => hwrites.x_of_ne
  obtain ⟨hpc, _, hmem, hsys⟩ := hwrites
  exact ⟨t, hexec, hpc, hmem, hsys, rd, hothers⟩

end Sys2Proof.Machine
end


section
/-! PROOFS. The statement on JAL and JALR (spec/41_jumps.md): their words and their results (O12). -/

namespace Sys2Proof.Machine

/-! ## The end that the two jumps share -/

/-- R130, R131: to an aligned target the jump links and goes there, and it changes nothing else. -/
theorem State.jumpAndLink_aligned (s : State) (rd : Reg) {target : Word} (h : target.toNat % 4 = 0) :
    ∃ t, s.jumpAndLink rd target = .next t ∧ t.pc = target ∧ RegsAfterWrite rd (s.pc + 4#32) s t ∧
      SameMemory s t ∧ SameSystem s t := by
  have hnext : s.jumpAndLink rd target = .next ((s.setX rd (s.pc + 4#32)).setPc target) :=
    if_pos ((alignedTarget_iff target).mpr h)
  have hregs : RegsAfterWrite rd (s.pc + 4#32) s ((s.setX rd (s.pc + 4#32)).setPc target) := fun r => by
    rw [State.setPc_x, State.setX_x]
  exact ⟨_, hnext, State.setPc_pc .., hregs, fun a => by simp, by simp, by simp, by simp, by simp⟩

/-- R28, R237: at any other target the jump stops before it links, and the fault carries the target and the pc. -/
theorem State.jumpAndLink_misaligned (s : State) (rd : Reg) {target : Word} (h : target.toNat % 4 ≠ 0) :
    s.jumpAndLink rd target = .fault (.misalignedFetch target s.pc) :=
  if_neg (mt (alignedTarget_iff target).mp h)

/-! ## JAL and JALR -/

/-- Settles O12. Each jump is the shared end at its own target, JAL's from the pc and JALR's from x[rs1] of the state
before the link; the two cases of each are whether that target is aligned. -/
theorem jumpResults : Obligations.JumpResults := by
  refine fun rd rs1 offset imm s => ⟨rfl, rfl, ?jalLinks, ?jalFaults, ?jalrLinks, ?jalrFaults⟩
  case jalLinks => exact s.jumpAndLink_aligned rd
  case jalFaults => exact s.jumpAndLink_misaligned rd
  case jalrLinks => exact s.jumpAndLink_aligned rd
  case jalrFaults => exact s.jumpAndLink_misaligned rd

end Sys2Proof.Machine
end


section
/-! PROOFS. The statement on the six branches (spec/42_branches.md): their words, their comparisons and their results
(O13). -/

namespace Sys2Proof.Machine

/-! ## The comparisons, on the values that the rules name -/

theorem condEq_iff (a b : Word) : condEq a b = true ↔ a = b := beq_iff_eq

theorem condNe_iff (a b : Word) : condNe a b = true ↔ a ≠ b := bne_iff_ne

theorem condLt_iff (a b : Word) : condLt a b = true ↔ a.toInt < b.toInt := decide_eq_true_iff

theorem condGe_iff (a b : Word) : condGe a b = true ↔ a.toInt ≥ b.toInt := decide_eq_true_iff

theorem condLtu_iff (a b : Word) : condLtu a b = true ↔ a.toNat < b.toNat := decide_eq_true_iff

theorem condGeu_iff (a b : Word) : condGeu a b = true ↔ a.toNat ≥ b.toNat := decide_eq_true_iff

/-! ## The end that the branches share -/

/-- R26, R140: moving the pc is all that an instruction without a result does. -/
theorem State.setPc_movesOnly (s : State) (p : Word) : MovesOnly p s (s.setPc p) :=
  ⟨s.setPc_pc p, s.setPc_x p, fun a => by simp, by simp, by simp, by simp, by simp⟩

theorem State.branch_true_aligned {s : State} {offset : BitVec 13} (h : (s.pc + offsetB offset).toNat % 4 = 0) :
    s.branch true offset = .next (s.setPc (s.pc + offsetB offset)) :=
  if_pos ((alignedTarget_iff _).mpr h)

/-- R28, R237: the fault carries the target and the pc of the branch. -/
theorem State.branch_true_misaligned {s : State} {offset : BitVec 13} (h : (s.pc + offsetB offset).toNat % 4 ≠ 0) :
    s.branch true offset = .fault (.misalignedFetch (s.pc + offsetB offset) s.pc) :=
  if_neg (mt (alignedTarget_iff _).mp h)

/-- R140: the target of a branch that is not taken is not looked at. -/
theorem State.branch_false (s : State) (offset : BitVec 13) : s.branch false offset = .next s.advance := rfl

/-- R140: an instruction that ends in the shared branch does what the rule says, taken on what its condition decides. -/
theorem branchRule_of_branch {i : Instr} {s : State} {c : Bool} {taken : Prop} {offset : BitVec 13}
    (hi : exec i s = s.branch c offset) (hc : c = true ↔ taken) : BranchRule i taken offset s := by
  unfold BranchRule
  rw [hi, ← hc]
  refine ⟨?takenAligned, ?takenMisaligned, ?notTaken⟩
  case takenAligned =>
    rintro rfl ha
    exact ⟨_, State.branch_true_aligned ha, s.setPc_movesOnly _⟩
  case takenMisaligned =>
    rintro rfl ha
    exact State.branch_true_misaligned ha
  case notTaken =>
    intro hfalse
    obtain rfl : c = false := eq_false_of_ne_true hfalse
    exact ⟨_, s.branch_false offset, s.setPc_movesOnly _⟩

/-! ## The six branches -/

/-- Settles O13. The words are the encoder's arms; each branch is the shared end on its own comparison. -/
theorem branchResults : Obligations.BranchResults := by
  refine fun rs1 rs2 offset s => ⟨fun _ => rfl, rfl, rfl, rfl, rfl, rfl, rfl, ?beq, ?bne, ?blt, ?bge, ?bltu, ?bgeu⟩
  case beq => exact branchRule_of_branch rfl (condEq_iff _ _)
  case bne => exact branchRule_of_branch rfl (condNe_iff _ _)
  case blt => exact branchRule_of_branch rfl (condLt_iff _ _)
  case bge => exact branchRule_of_branch rfl (condGe_iff _ _)
  case bltu => exact branchRule_of_branch rfl (condLtu_iff _ _)
  case bgeu => exact branchRule_of_branch rfl (condGeu_iff _ _)

end Sys2Proof.Machine
end


section
/-! PROOFS. The statement on the five loads (spec/43_loads.md): their words, what they write and what stops them
(O14). -/

namespace Sys2Proof.Machine

/-! ## What stops an access -/

/-- R235: an operation after one that raised a fault keeps the fault. -/
theorem map_of_error {α β : Type} {r : Except Fault α} {e : Fault} (h : r = .error e) (f : α → β) :
    r.map f = .error e := by
  rw [h]
  rfl

/-- R242: an instruction that stops in whatever fault the checks of its access raise stops at the two conditions, in
their order. -/
theorem accessStops_of_checkAccess {i : Instr} {s : State} {a : Word} {w : Width}
    (h : ∀ e, s.checkAccess a w = .error e → exec i s = .fault e) : AccessStops i a w s :=
  ⟨fun ha => h _ (State.checkAccess_misaligned ha), fun ha hb => h _ (State.checkAccess_unbacked ha hb)⟩

/-! ## The end that the loads share -/

/-- R38: that the MAR took the address is not part of what `WritesOnly` compares. -/
theorem State.latchAddr_writeBack_writesOnly (s : State) (a : Word) (rd : Reg) (v : Word) :
    WritesOnly rd v s ((s.latchAddr a).writeBack rd v) := by
  refine ⟨by simp, fun r => ?_, fun b => by simp, by simp, by simp, by simp, by simp⟩
  rw [State.writeBack_x, State.latchAddr_x]

/-- R58, R150: a read of plain memory leaves no note, so a load from there only latches the address and writes x[rd]. -/
theorem State.load_accessible {s : State} {rd : Reg} {a v : Word} {w : Width} {r : Except Fault Word}
    (h : s.accessible a w = true) (hr : r = .ok v) :
    s.load rd a w r = .next ((s.latchAddr a).writeBack rd v) := by
  rw [hr, State.load, State.noteRead_plain (State.accessible_plain h)]
  rfl

/-- A load whose read raised a fault stops in that fault. -/
theorem State.load_error {s : State} {rd : Reg} {a : Word} {w : Width} {r : Except Fault Word} {e : Fault}
    (hr : r = .error e) : s.load rd a w r = .fault e := by
  rw [hr]
  rfl

/-! ## The five loads -/

/-- Settles O14. Each load is the shared end on what its own read gives, extended as its rule says; a fault of the
access's checks passes through the read, the extension and the end. -/
theorem loadResults : Obligations.LoadResults := by
  intro rd rs1 offset s a ha
  obtain rfl : a = s.effective rs1 offset := ha
  refine ⟨rfl, rfl, rfl, rfl, rfl, fun h => ?lb, fun h => ?lh, fun h => ?lw, fun h => ?lbu, fun h => ?lhu,
    (accessStops_of_checkAccess fun _ he => ?lbStops).2, accessStops_of_checkAccess fun _ he => ?lhStops,
    accessStops_of_checkAccess fun _ he => ?lwStops, (accessStops_of_checkAccess fun _ he => ?lbuStops).2,
    accessStops_of_checkAccess fun _ he => ?lhuStops⟩
  case lb =>
    exact ⟨_, _, State.load_accessible h (congrArg _ (State.readByte_accessible h)),
      BitVec.toInt_signExtend_of_le (by decide), s.latchAddr_writeBack_writesOnly ..⟩
  case lh =>
    exact ⟨_, _, State.load_accessible h (congrArg _ (State.readHalf_accessible h)),
      BitVec.toInt_signExtend_of_le (by decide), s.latchAddr_writeBack_writesOnly ..⟩
  case lw =>
    exact ⟨_, State.load_accessible h (State.readWord_accessible h), s.latchAddr_writeBack_writesOnly ..⟩
  case lbu =>
    exact ⟨_, _, State.load_accessible h (congrArg _ (State.readByte_accessible h)),
      BitVec.toNat_setWidth_of_le (by decide), s.latchAddr_writeBack_writesOnly ..⟩
  case lhu =>
    exact ⟨_, _, State.load_accessible h (congrArg _ (State.readHalf_accessible h)),
      BitVec.toNat_setWidth_of_le (by decide), s.latchAddr_writeBack_writesOnly ..⟩
  case lwStops => exact State.load_error (map_of_error he _)
  case lbStops | lhStops | lbuStops | lhuStops => exact State.load_error (map_of_error (map_of_error he _) _)

end Sys2Proof.Machine
end


section
/-! PROOFS. The statements on the three stores (spec/44_stores.md): their words, what they write and what stops them
(O15), and the encodings that do the same under both readings of STORE_RS2_FIELD (O16). -/

namespace Sys2Proof.Machine

/-! ## The bytes of a store under the default byte order -/

/-- R51, R53: of the low halfword of a word, the low byte goes to the lower address. -/
theorem State.putHalf_byteAt_little {s : State} (h : s.cfg.byteOrder = .little) (a v : Word) :
    (s.putHalf a (v.extractLsb' 0 16)).byteAt a = v.extractLsb' 0 8 ∧
    (s.putHalf a (v.extractLsb' 0 16)).byteAt (a + 1#32) = v.extractLsb' 8 8 := by
  simpa [h, byteOfHalf] using s.putHalf_byteAt a (v.extractLsb' 0 16)

/-- R51, R53: the bytes of a word go to rising addresses, the lowest first. -/
theorem State.putWord_byteAt_little {s : State} (h : s.cfg.byteOrder = .little) (a v : Word) :
    (s.putWord a v).byteAt a = v.extractLsb' 0 8 ∧ (s.putWord a v).byteAt (a + 1#32) = v.extractLsb' 8 8 ∧
    (s.putWord a v).byteAt (a + 2#32) = v.extractLsb' 16 8 ∧
    (s.putWord a v).byteAt (a + 3#32) = v.extractLsb' 24 8 := by
  simpa [h, byteOfWord] using s.putWord_byteAt a v

/-! ## The end that the stores share -/

/-- A store whose write gave a state advances the pc of that state. -/
theorem finish_advance_ok {r : Except Fault State} {u : State} (h : r = .ok u) :
    finish (r.map State.advance) = .next u.advance := by
  rw [h]
  rfl

/-- A store whose write raised a fault stops in that fault. -/
theorem finish_advance_error {r : Except Fault State} {e : Fault} (h : r = .error e) :
    finish (r.map State.advance) = .fault e :=
  congrArg finish (map_of_error h _)

/-- R53, R160: after a write of nothing but the bytes of one access, the advance leaves all else as it was. -/
theorem State.advance_storeFrame {s u : State} {a : Word} {w : Width} (hout : SameMemoryOutside a w s u)
    (hu : u.pc = s.pc ∧ u.regs = s.regs ∧ u.csrs = s.csrs ∧ u.cfg = s.cfg ∧ u.free = s.free ∧ u.io = s.io) :
    SameMemoryOutside a w s u.advance ∧ u.advance.pc = s.pc + 4#32 ∧ SameRegs s u.advance ∧
      SameSystem s u.advance := by
  obtain ⟨hpc, hregs, hsys⟩ := hu
  exact ⟨hout, by rw [State.advance_pc, hpc], State.x_congr hregs, hsys⟩

/-! ## The three stores -/

theorem storeRs2_ir24to20 {p : Config.Params} (h : p.storeRs2 = .ir24to20) (offset : BitVec 12) (low : BitVec 5) :
    storeRs2 p offset low = offset.extractLsb' 0 5 := by
  rw [storeRs2, h]

theorem storeRs2_ir11to7 {p : Config.Params} (h : p.storeRs2 = .ir11to7) (offset : BitVec 12) (low : BitVec 5) :
    storeRs2 p offset low = low := by
  rw [storeRs2, h]

/-- Settles O15. Each store to plain memory puts its part of the data register there and ends in the shared frame; a
fault of the access's checks passes through the write and the end. -/
theorem storeResults : Obligations.StoreResults := by
  intro rs1 offset low s a v ha hv
  obtain rfl : a = s.effective rs1 offset := ha
  subst hv
  refine ⟨rfl, rfl, rfl, fun h => storeRs2_ir24to20 h _ _, fun h => storeRs2_ir11to7 h _ _, fun h => ?sb,
    fun h => ?sh, fun h => ?sw, (accessStops_of_checkAccess fun _ he => ?sbStops).2,
    accessStops_of_checkAccess fun _ he => ?shStops, accessStops_of_checkAccess fun _ he => ?swStops⟩
  case sb =>
    exact ⟨_, finish_advance_ok (State.writeByte_accessible h _),
      by rw [State.advance_byteAt, State.putByte_byteAt],
      State.advance_storeFrame (State.putByte_read_outside _ _ _) (by simp)⟩
  case sh =>
    refine ⟨_, finish_advance_ok (State.writeHalf_accessible h _), ?_, fun ho => ?_, ?_⟩
    · rw [State.advance_halfAt, State.putHalf_halfAt]
    · simp only [State.advance_byteAt]
      exact State.putHalf_byteAt_little ho _ _
    · exact State.advance_storeFrame (State.putHalf_read_outside _ _ _) (by simp)
  case sw =>
    refine ⟨_, finish_advance_ok (State.writeWord_accessible h _), ?_, fun ho => ?_, ?_⟩
    · rw [State.advance_wordAt, State.putWord_wordAt]
    · simp only [State.advance_byteAt]
      exact State.putWord_byteAt_little ho _ _
    · exact State.advance_storeFrame (State.putWord_read_outside _ _ _) (by simp)
  case sbStops | shStops | swStops => exact finish_advance_error (map_of_error he _)

/-! ## The reading of STORE_RS2_FIELD -/

/-- R160: where the two fields agree, both readings name the same data register. -/
theorem storeRs2_of_safe {offset : BitVec 12} {low : BitVec 5} (h : low = offset.extractLsb' 0 5)
    (p : Config.Params) : storeRs2 p offset low = low := by
  cases hp : p.storeRs2 with
  | ir24to20 => rw [storeRs2_ir24to20 hp, h]
  | ir11to7 => exact storeRs2_ir11to7 hp offset low

section
variable (f : Config.StoreRs2Field) (s : State)

@[simp] theorem State.withStoreRs2_x (r : Reg) : (s.withStoreRs2 f).x r = s.x r := rfl

@[simp] theorem State.withStoreRs2_effective (rs1 : Reg) (offset : BitVec 12) :
    (s.withStoreRs2 f).effective rs1 offset = s.effective rs1 offset := rfl

@[simp] theorem State.withStoreRs2_checkAccess (a : Word) (w : Width) :
    (s.withStoreRs2 f).checkAccess a w = s.checkAccess a w := rfl

/-! The writes do not look at the parameter: it is put before them or after them alike. -/

@[simp] theorem State.withStoreRs2_writeByte (a : Word) (v : Byte) :
    (s.withStoreRs2 f).writeByte a v = (s.writeByte a v).map (State.withStoreRs2 f) := by
  rw [State.writeByte, State.writeByte, State.withStoreRs2_checkAccess]
  cases s.checkAccess a .byte <;> rfl

@[simp] theorem State.withStoreRs2_writeHalf (a : Word) (v : Half) :
    (s.withStoreRs2 f).writeHalf a v = (s.writeHalf a v).map (State.withStoreRs2 f) := by
  rw [State.writeHalf, State.writeHalf, State.withStoreRs2_checkAccess]
  cases s.checkAccess a .half <;> rfl

@[simp] theorem State.withStoreRs2_writeWord (a v : Word) :
    (s.withStoreRs2 f).writeWord a v = (s.writeWord a v).map (State.withStoreRs2 f) := by
  rw [State.writeWord, State.writeWord, State.withStoreRs2_checkAccess]
  cases s.checkAccess a .word <;> rfl

/-- The end of a store does not look at the parameter either. -/
@[simp] theorem finish_advance_withStoreRs2 (r : Except Fault State) :
    finish ((r.map (State.withStoreRs2 f)).map State.advance) =
      mapNext (State.withStoreRs2 f) (finish (r.map State.advance)) := by
  cases r <;> rfl

end

/-- Settles O16: the data register is the one both fields name, and nothing else in a store looks at the parameter. -/
theorem safeStoreEncodingsDoNotDependOnTheReading : Obligations.SafeStoreEncodingsDoNotDependOnTheReading := by
  intro rs1 offset low s f hlow
  have hreg (p : Config.Params) : storeRs2 p offset low = low := storeRs2_of_safe hlow p
  refine ⟨?sb, ?sh, ?sw⟩
  case sb => simp [exec, execSb, hreg]
  case sh => simp [exec, execSh, hreg]
  case sw => simp [exec, execSw, hreg]

end Sys2Proof.Machine
end


section
/-! PROOFS. The statements on register-immediate arithmetic (spec/45_op_imm.md): the six with a 12-bit immediate (O17),
the three shifts (O18), and the shift amounts that no valid instruction carries, in the word (O8) and in `exec` (O19). -/

namespace Sys2Proof.Machine

/-! ## Bit 5 of a shift amount, and IR[25] -/

/-- R96: bit 5 of the six-bit field is set exactly for the amounts from 32 on. -/
theorem shamt_bit5 (shamt : BitVec 6) : shamt.getLsbD 5 = decide (32 ≤ shamt.toNat) :=
  (BitVec.msb_eq_getLsbD_last shamt).symm.trans (BitVec.msb_eq_decide shamt)

/-- R180: the amounts that a valid encoding carries are those below 32. -/
theorem validShamt_iff (shamt : BitVec 6) : validShamt shamt = true ↔ shamt.toNat < 32 := by
  rw [validShamt, shamt_bit5, Bool.not_eq_true', decide_eq_false_iff_not, Nat.not_le]

/-- R84: bit 5 of the shift amount stands in IR[25]. -/
theorem encShift_bit25 (u shamt : BitVec 6) (rs1 : Reg) (f3 : BitVec 3) (rd : Reg) :
    (encShift u shamt rs1 f3 rd).getLsbD 25 = shamt.getLsbD 5 := by
  have hbit (w : Word) : w.getLsbD 25 = (fShamt w).getLsbD 5 := by simp [fShamt, bits]
  rw [hbit, encShift_fShamt]

/-- IR[25] is the low bit of funct7, so a word in which it is set has none of the codes whose low bit is clear. -/
theorem fFunct7_ne_of_bit25 {w : Word} (h : w.getLsbD 25 = true) {c : BitVec 7} (hc : c.getLsbD 0 = false) :
    fFunct7 w ≠ c := by
  have hbit : (fFunct7 w).getLsbD 0 = true := by simpa [fFunct7, bits] using h
  rintro rfl
  exact Bool.false_ne_true (hc.symm.trans hbit)

/-- R180: both codes of funct7 that the immediate shifts admit have a clear low bit. -/
theorem decodeOpImm_shift_of_bit25 {w : Word} (h3 : fFunct3 w = 0b001#3 ∨ fFunct3 w = 0b101#3)
    (h25 : w.getLsbD 25 = true) : decodeOpImm w = .error .funct7 := by
  have hlogical : fFunct7 w ≠ 0b0000000#7 := fFunct7_ne_of_bit25 h25 rfl
  have harith : fFunct7 w ≠ 0b0100000#7 := fFunct7_ne_of_bit25 h25 rfl
  obtain hl | hr := h3
  · simp [decodeOpImm, select, hl, hlogical]
  · simp [decodeOpImm, select, hr, hlogical, harith]

/-- Settles O8: the word is fetched, and the decoder finds no code of funct7 for it. -/
theorem shiftWithBit25RaisesIllegalInstruction : Obligations.ShiftWithBit25RaisesIllegalInstruction := by
  intro s hpc hop h3 h25
  have hdecode : decode (s.wordAt s.pc) = .error .funct7 :=
    (decode_opImm hop).trans (decodeOpImm_shift_of_bit25 h3 h25)
  exact step_of_illegal (State.fetch_accessible hpc) hdecode

/-- R180: an immediate shift by 32 or more is the fault of its own word. -/
theorem State.shiftImm_invalid {shamt : BitVec 6} (h : 32 ≤ shamt.toNat) (s : State) (i : Instr) (k : ShiftKind)
    (rd rs1 : Reg) : s.shiftImm i k rd rs1 shamt = .fault (.illegalInstruction (encode i) s.pc) := by
  have hinvalid : ¬ validShamt shamt = true := by rwa [validShamt_iff, Nat.not_lt]
  rw [State.shiftImm, if_neg hinvalid]
  rfl

/-- Settles O19: the three stop alike, and IR[25] of each word is the bit that makes them stop. -/
theorem invalidShiftAmountStops : Obligations.InvalidShiftAmountStops := by
  intro rd rs1 shamt s h
  have h25 (u : BitVec 6) (f3 : BitVec 3) : (encShift u shamt rs1 f3 rd).getLsbD 25 = true := by
    rw [encShift_bit25, shamt_bit5, decide_eq_true h]
  exact ⟨⟨s.shiftImm_invalid h .., h25 ..⟩, ⟨s.shiftImm_invalid h .., h25 ..⟩, ⟨s.shiftImm_invalid h .., h25 ..⟩⟩

/-! ## The shifts, as arithmetic on the value -/

/-- R10: `a << n` multiplies the unsigned value by a power of two, modulo 2^32. -/
theorem shiftValue_left_toNat (v : Word) (n : Nat) :
    (shiftValue .left v n).toNat = v.toNat * 2 ^ n % 4294967296 := by
  rw [shiftValue, BitVec.toNat_shiftLeft, Nat.shiftLeft_eq]

/-- R10: `a >>u n` divides the unsigned value. -/
theorem shiftValue_logicalRight_toNat (v : Word) (n : Nat) :
    (shiftValue .logicalRight v n).toNat = v.toNat / 2 ^ n := by
  rw [shiftValue, BitVec.toNat_ushiftRight, Nat.shiftRight_eq_div_pow]

/-- R10, R179: `a >>s n` divides the signed value, rounding toward minus infinity. -/
theorem shiftValue_arithmeticRight_toInt (v : Word) (n : Nat) :
    (shiftValue .arithmeticRight v n).toInt = v.toInt / 2 ^ n := by
  rw [shiftValue, BitVec.toInt_sshiftRight, Int.shiftRight_eq_div_pow]
  norm_cast

/-- R177 to R179, R188, R192, R193: a shift completes and writes the shifted value alone. -/
theorem State.shift_writesOnly (s : State) (k : ShiftKind) (rd : Reg) (a : Word) (n : Nat) :
    ∃ t, s.shift k rd a n = .next t ∧ WritesOnly rd (shiftValue k a n) s t :=
  ⟨_, rfl, s.latchShift_writeBack_writesOnly k _ rd _⟩

/-- R96, R177 to R179: below 32 the amount is the field's own value. -/
theorem State.shiftImm_writesOnly {shamt : BitVec 6} (h : shamt.toNat < 32) (s : State) (i : Instr) (k : ShiftKind)
    (rd rs1 : Reg) :
    ∃ t, s.shiftImm i k rd rs1 shamt = .next t ∧ WritesOnly rd (shiftValue k (s.x rs1) shamt.toNat) s t := by
  rw [State.shiftImm_valid ((validShamt_iff shamt).2 h), shamtAmount_eq, Nat.mod_eq_of_lt h]
  exact s.shift_writesOnly k rd _ _

/-- Settles O18: each is the shared immediate shift, with the arithmetic of its own kind. -/
theorem immediateShiftResults : Obligations.ImmediateShiftResults := by
  refine fun rd rs1 shamt s h => ⟨rfl, rfl, rfl, ?slli, ?srli, ?srai⟩
  case slli =>
    obtain ⟨t, hexec, hwrites⟩ := s.shiftImm_writesOnly h (.slli rd rs1 shamt) .left rd rs1
    exact ⟨t, _, hexec, shiftValue_left_toNat .., hwrites⟩
  case srli =>
    obtain ⟨t, hexec, hwrites⟩ := s.shiftImm_writesOnly h (.srli rd rs1 shamt) .logicalRight rd rs1
    exact ⟨t, _, hexec, shiftValue_logicalRight_toNat .., hwrites⟩
  case srai =>
    obtain ⟨t, hexec, hwrites⟩ := s.shiftImm_writesOnly h (.srai rd rs1 shamt) .arithmeticRight rd rs1
    exact ⟨t, _, hexec, shiftValue_arithmeticRight_toInt .., hwrites⟩

/-! ## The six with a 12-bit immediate -/

/-- R91: sign extension keeps the immediate's signed value. -/
theorem immI_toInt (imm : BitVec 12) : (immI imm).toInt = imm.toInt :=
  BitVec.toInt_signExtend_of_le (by decide)

/-- R171, R186: the sum of two words is that of their signed values modulo 2^32, whatever overflows. -/
theorem ofInt_toInt_add (a b : Word) : BitVec.ofInt 32 (a.toInt + b.toInt) = a + b := by
  rw [BitVec.ofInt_add, BitVec.ofInt_toInt, BitVec.ofInt_toInt]

/-- R172, R189: what the signed comparison writes. -/
theorem boolWord_condLt (a b : Word) : boolWord (condLt a b) = if a.toInt < b.toInt then 1#32 else 0#32 := by
  simp only [boolWord, condLt_iff]

/-- R173, R190: what the unsigned comparison writes. -/
theorem boolWord_condLtu (a b : Word) : boolWord (condLtu a b) = if a.toNat < b.toNat then 1#32 else 0#32 := by
  simp only [boolWord, condLtu_iff]

/-- Settles O17: each ends in the shared write of one result, and the three results that the rules give by their
arithmetic are the model's words. -/
theorem immediateArithmeticResults : Obligations.ImmediateArithmeticResults := by
  refine fun rd rs1 imm s => ⟨rfl, rfl, rfl, rfl, rfl, rfl, ?addi, ?slti, ?sltiu, ?xori, ?ori, ?andi⟩
  case addi =>
    rw [← immI_toInt, ofInt_toInt_add]
    exact ⟨_, rfl, s.writeBack_writesOnly ..⟩
  case slti =>
    rw [← immI_toInt, ← boolWord_condLt]
    exact ⟨_, rfl, s.writeBack_writesOnly ..⟩
  case sltiu =>
    rw [← boolWord_condLtu]
    exact ⟨_, rfl, s.writeBack_writesOnly ..⟩
  case xori | ori | andi => exact ⟨_, rfl, s.writeBack_writesOnly ..⟩

end Sys2Proof.Machine
end


section
/-! PROOFS. The statements on register-register arithmetic (spec/46_op_reg.md): the five that add, subtract or combine
bit by bit (O20), the two comparisons (O21), and the three shifts (O22). -/

namespace Sys2Proof.Machine

/-- R187: the difference of two words is that of their signed values modulo 2^32, whatever overflows. -/
theorem ofInt_toInt_sub (a b : Word) : BitVec.ofInt 32 (a.toInt - b.toInt) = a - b :=
  BitVec.eq_of_toInt_eq (by rw [BitVec.toInt_ofInt, BitVec.toInt_sub])

/-- Settles O20: each ends in the shared write of one result; the sum and the difference, which the statement takes
of the signed values modulo 2^32, are the words that the model computes. -/
theorem registerArithmeticResults : Obligations.RegisterArithmeticResults := by
  refine fun rd rs1 rs2 s => ⟨rfl, rfl, rfl, rfl, rfl, ?add, ?sub, ?xor, ?or, ?and⟩
  case add =>
    rw [ofInt_toInt_add]
    exact ⟨_, rfl, s.writeBack_writesOnly ..⟩
  case sub =>
    rw [ofInt_toInt_sub]
    exact ⟨_, rfl, s.writeBack_writesOnly ..⟩
  case xor | or | and => exact ⟨_, rfl, s.writeBack_writesOnly ..⟩

/-- Settles O21: each writes the outcome of its own comparison, the ones that SLTI and SLTIU make. -/
theorem registerCompareResults : Obligations.RegisterCompareResults := by
  refine fun rd rs1 rs2 s => ⟨rfl, rfl, ?slt, ?sltu⟩
  case slt =>
    rw [← boolWord_condLt]
    exact ⟨_, rfl, s.writeBack_writesOnly ..⟩
  case sltu =>
    rw [← boolWord_condLtu]
    exact ⟨_, rfl, s.writeBack_writesOnly ..⟩

/-- Settles O22: each is the shared shift by the five low bits of x[rs2], with the arithmetic of its own kind. -/
theorem registerShiftResults : Obligations.RegisterShiftResults := by
  intro rd rs1 rs2 s n hn
  obtain rfl : n = regAmount (s.x rs2) := hn.trans (regAmount_eq _).symm
  refine ⟨rfl, rfl, rfl, ?sll, ?srl, ?sra⟩
  case sll => exact ⟨_, _, rfl, shiftValue_left_toNat .., s.latchShift_writeBack_writesOnly ..⟩
  case srl => exact ⟨_, _, rfl, shiftValue_logicalRight_toNat .., s.latchShift_writeBack_writesOnly ..⟩
  case sra => exact ⟨_, _, rfl, shiftValue_arithmeticRight_toInt .., s.latchShift_writeBack_writesOnly ..⟩

end Sys2Proof.Machine
end


section
/-! PROOFS. The statements on the CSR instructions (spec/47_csr.md): their words and their results on a plain register
of CSR_MAP, in the register forms (O25) and in the immediate forms (O26). -/

namespace Sys2Proof.Machine

/-- R35, R201 to R206: in a plain register every bit takes the written one, so the CSR takes the new value whole. -/
theorem csrRule_of_access_plain {i : Instr} {s : State} {rd : Reg} {a : CsrAddr} {src : Word}
    {new : Word → Word → Word} {e : CsrEntry} (hi : exec i s = s.csrAccess rd a src new)
    (he : csrFind s.csrs a = some e) (hplain : e.decl.plain) : CsrRule i rd a e.value (new e.value src) s := by
  obtain ⟨hmask, hnone⟩ := hplain
  have hrule := csrRule_of_access hi he hnone
  rwa [CsrEntry.written_plain hmask] at hrule

/-- Settles O25: the register forms are three of the six that share the access. -/
theorem csrRegisterFormResults : Obligations.CsrRegisterFormResults := by
  intro rd rs1 a s e he hplain
  obtain ⟨hrw, hrs, hrc, _, _, _⟩ := csr_forms (P := fun i v => CsrRule i rd a e.value v s)
    (fun _ _ _ hi => csrRule_of_access_plain hi he hplain) rs1 0#5
  exact ⟨rfl, rfl, rfl, hrw, hrs, hrc⟩

/-- Settles O26: the immediate forms are the other three. -/
theorem csrImmediateFormResults : Obligations.CsrImmediateFormResults := by
  intro rd zimm a s e he hplain
  obtain ⟨_, _, _, hrwi, hrsi, hrci⟩ := csr_forms (P := fun i v => CsrRule i rd a e.value v s)
    (fun _ _ _ hi => csrRule_of_access_plain hi he hplain) 0#5 zimm
  exact ⟨rfl, rfl, rfl, hrwi, hrsi, hrci⟩

end Sys2Proof.Machine
end


section
/-! PROOFS. The statements on MUL (spec/48_mul.md): its word and its result (O23), and that neither the signedness nor
the order of the operands matters (O24). -/

namespace Sys2Proof.Machine

/-- R9: a signed value modulo 2^32 is the unsigned value of the word that holds it. -/
theorem toNat_ofInt_word (i : Int) : ((BitVec.ofInt 32 i).toNat : Int) = i % 4294967296 := by
  rw [BitVec.toNat_ofInt, Int.toNat_of_nonneg (Int.emod_nonneg i (by decide))]
  rfl

/-- R216: the low word of the signed product is the product of the words. -/
theorem ofInt_toInt_mul (a b : Word) : BitVec.ofInt 32 (a.toInt * b.toInt) = a * b := by
  rw [BitVec.ofInt_mul, BitVec.ofInt_toInt, BitVec.ofInt_toInt]

/-- Settles O23: the shared write of one result, the signed product cut to a word. -/
theorem multiplyResult : Obligations.MultiplyResult :=
  fun rd _ _ s => ⟨rfl, _, _, rfl, toNat_ofInt_word _, s.writeBack_writesOnly rd _⟩

/-- Settles O24: the product of the words, in which the operands are unsigned and commute. -/
theorem multiplyIgnoresSignednessAndOrder : Obligations.MultiplyIgnoresSignednessAndOrder := by
  intro rd rs1 rs2 s
  have hmul (r q : Reg) : exec (.mul rd r q) s = .next (s.writeBack rd (s.x r * s.x q)) := by
    rw [exec, execMul, ofInt_toInt_mul]
  refine ⟨⟨_, _, hmul rs1 rs2, BitVec.toNat_mul _ _, s.writeBack_writesOnly rd _⟩, ?_⟩
  rw [hmul, hmul, BitVec.mul_comm]

end Sys2Proof.Machine
end


section
/-! PROOFS. The statements on SWSP and LWSP (spec/49_stack_push_pop.md): with the stack pointer left alone (O31, O32)
and under the two readings of SP_AUTO_ADJUST that move it (O34, O35). -/

namespace Sys2Proof.Machine

/-! ## SWSP -/

/-- R221, R223: SWSP to plain memory stores the word, and x[2] is the one register that it writes. -/
theorem exec_swsp_accessible {s : State} {uimm : BitVec 6} (h : s.accessible (s.pushAddr uimm) .word = true)
    (reg : Reg) :
    ∃ t, exec (.swsp uimm reg) s = .next t ∧ t.wordAt (s.pushAddr uimm) = s.x reg ∧
      SameMemoryOutside (s.pushAddr uimm) .word s t ∧ t.pc = s.pc + 4#32 ∧
      RegsAfterWrite 2#5 (pushSp s.cfg (s.x 2#5)) s t ∧ SameSystem s t := by
  refine ⟨_, exec_swsp_of_write (State.writeWord_accessible h (s.x reg)), ?stored, fun b hb => ?outside, by simp,
    fun r => by simp [State.setX_x], by simp, by simp, by simp, by simp⟩
  case stored => rw [State.advance_wordAt, State.setX_wordAt, State.putWord_wordAt]
  case outside =>
    rw [State.advance_mem, State.setX_mem]
    exact State.putWord_read_outside _ _ _ b hb

/-- R242: a fault of the checks passes through the write and the end. -/
theorem exec_swsp_stops (s : State) (uimm : BitVec 6) (reg : Reg) :
    AccessStops (.swsp uimm reg) (s.pushAddr uimm) .word s :=
  accessStops_of_checkAccess fun _ he => congrArg finish (map_of_error (map_of_error he _) _)

/-- R11: after a register is written its own value, every register is as it was. -/
theorem RegsAfterWrite.sameRegs {r : Reg} {s t : State} (h : RegsAfterWrite r (s.x r) s t) : SameRegs s t := by
  intro q
  rw [h q]
  split_ifs with h0 hq
  · rw [h0, State.x_zero]
  · rw [hq]
  · rfl

/-- R220, R223: where SWSP's address starts from. -/
theorem pushBase_eq (p : Config.Params) (sp : Word) :
    pushBase p sp = if p.spAdjust = .pushPredecPopPostinc then sp - 4#32 else sp := by
  cases h : p.spAdjust <;> simp [pushBase, h]

/-- Settles O31: where the stack pointer stays, x[2] is written its own value. -/
theorem pushResult : Obligations.PushResult := by
  intro uimm reg s a hsp ha
  obtain rfl : a = s.pushAddr uimm := by rw [ha, State.pushAddr, pushBase_eq, hsp]; rfl
  refine ⟨rfl, fun h => ?_, exec_swsp_stops s uimm reg⟩
  obtain ⟨t, hexec, hword, hout, hpc, hregs, hsys⟩ := exec_swsp_accessible h reg
  rw [pushSp_eq, if_pos hsp] at hregs
  exact ⟨t, hexec, hword, hout, hpc, hregs.sameRegs, hsys⟩

/-- Settles O34: the two readings differ in where the address starts from, and agree on where x[2] ends. -/
theorem pushMovesTheStackPointer : Obligations.PushMovesTheStackPointer := by
  intro uimm reg s a hsp ha
  obtain rfl : a = s.pushAddr uimm := by rw [ha, State.pushAddr, pushBase_eq]
  refine ⟨fun h => ?_, exec_swsp_stops s uimm reg⟩
  have hpush := exec_swsp_accessible h reg
  rwa [pushSp_eq, if_neg hsp] at hpush

/-! ## LWSP -/

/-- R242: a fault of the checks passes through the read and the end. -/
theorem exec_lwsp_stops (s : State) (uimm : BitVec 6) (reg : BitVec 5) :
    AccessStops (.lwsp uimm reg) (s.popAddr uimm reg) .word s :=
  accessStops_of_checkAccess fun _ he => congrArg finish (map_of_error (map_of_error he _) _)

/-- R222, R223: LWSP from plain memory writes the word there, and leaves no note. -/
theorem exec_lwsp_accessible {s : State} {uimm : BitVec 6} {reg : BitVec 5}
    (h : s.accessible (s.popAddr uimm reg) .word = true) :
    exec (.lwsp uimm reg) s =
      .next ((s.latchAddr (s.popAddr uimm reg)).popWrite (popRd s.cfg uimm reg)
        (s.wordAt (s.popAddr uimm reg))).advance := by
  rw [exec, execLwsp, State.readWord_accessible h, State.noteRead_plain (State.accessible_plain h)]
  rfl

/-- R220, R223: where LWSP's address starts from, unless the stack pointer stays. -/
theorem popBase_eq {p : Config.Params} (h : p.spAdjust ≠ .unchanged) (sp : Word) :
    popBase p sp = if p.spAdjust = .pushPredecPopPostinc then sp else sp + 4#32 := by
  cases hp : p.spAdjust <;> simp_all [popBase]

/-- R223: either reading that moves the stack pointer leaves it 4 higher. -/
theorem popSp_eq {p : Config.Params} (h : p.spAdjust ≠ .unchanged) (sp : Word) : popSp p sp = sp + 4#32 := by
  cases hp : p.spAdjust <;> simp_all [popSp]

/-- R222: the alternative destination is IR[11:7], the five low bits of IR[12:7]. -/
theorem popRd_ir11to7 {p : Config.Params} (h : p.popRd = .ir11to7) (uimm : BitVec 6) (reg : BitVec 5) :
    (popRd p uimm reg).toNat = uimm.toNat % 32 := by
  simp [popRd, h]

/-- R222: under the default the destination is IR[6:2], and the displacement is PUSH's. -/
theorem pop_ir6to2 {p : Config.Params} (h : p.popRd = .ir6to2) (uimm : BitVec 6) (reg : BitVec 5) :
    popRd p uimm reg = reg ∧ popUimm p uimm reg = pushUimm p uimm := by
  simp [popRd, popUimm, h]

/-- Settles O32: where the stack pointer stays, LWSP is a load. -/
theorem popResult : Obligations.PopResult := by
  intro uimm reg s a hsp ha
  obtain rfl : a = s.popAddr uimm reg := by rw [ha, State.popAddr, popBase, hsp]
  refine ⟨rfl, fun h => ?_, exec_lwsp_stops s uimm reg, fun h => pop_ir6to2 h _ _, fun h => popRd_ir11to7 h _ _⟩
  rw [exec_lwsp_unchanged hsp]
  exact ⟨_, State.load_accessible h (State.readWord_accessible h), s.latchAddr_writeBack_writesOnly ..⟩

/-- R11: a write leaves every other register as it was. -/
theorem State.setX_x_of_ne (s : State) {i : Reg} (v : Word) {r : Reg} (h : r ≠ i) : (s.setX i v).x r = s.x r := by
  rw [State.setX_x, if_neg h]
  split_ifs with h0
  · rw [h0, State.x_zero]
  · rfl

section
variable {s : State} {rd : Reg}

/-- R223: of a pop that moves the stack pointer, only x[2] and the destination take a new value. -/
theorem State.popWrite_x_of_ne (hsp : s.cfg.spAdjust ≠ .unchanged) (v : Word) {r : Reg} (h2 : r ≠ 2#5)
    (hrd : r ≠ rd) : (s.popWrite rd v).x r = s.x r := by
  rw [State.popWrite, if_neg hsp]
  split
  · exact s.setX_x_of_ne (Config.freeWord s.free) h2
  · rw [State.setX_x_of_ne _ v hrd, s.setX_x_of_ne _ h2]

/-- R223: where the destination is not x[2], the pop that moves the stack pointer is two plain writes. -/
theorem State.popWrite_moving (hsp : s.cfg.spAdjust ≠ .unchanged) (hrd : rd ≠ 2#5) (v : Word) :
    s.popWrite rd v = (s.setX 2#5 (s.x 2#5 + 4#32)).setX rd v := by
  rw [State.popWrite, if_neg hsp, if_neg hrd, popSp_eq hsp]

end

/-- Settles O35: the frame holds whatever the destination; x[2] and the word are those of the two plain writes, which
LWSP makes where the destination is not x[2]. -/
theorem popMovesTheStackPointer : Obligations.PopMovesTheStackPointer := by
  intro uimm reg rd s a hsp hrd ha
  subst hrd
  obtain rfl : a = s.popAddr uimm reg := by rw [ha, State.popAddr, popBase_eq hsp]
  have hmoving : (s.latchAddr (s.popAddr uimm reg)).cfg.spAdjust ≠ .unchanged := hsp
  refine ⟨fun h => ⟨_, exec_lwsp_accessible h, by simp, fun _ => by simp, by simp, by simp, ?io,
    fun r h2 hr => ?others, State.x_zero _, fun h2 => ?moved⟩, exec_lwsp_stops s uimm reg⟩
  case io =>
    obtain ⟨_, _, _, _, _, hio⟩ := State.popWrite_frame (s.latchAddr (s.popAddr uimm reg)) (popRd s.cfg uimm reg)
      (s.wordAt (s.popAddr uimm reg))
    exact hio
  case others => rw [State.advance_x, State.popWrite_x_of_ne hmoving _ h2 hr, State.latchAddr_x]
  case moved =>
    rw [State.popWrite_moving hmoving h2]
    exact ⟨by simp, by simp [State.setX_x, Ne.symm h2], fun h0 => by simp [State.setX_x, h0]⟩

end Sys2Proof.Machine
end


section
/-! PROOFS. The statements on exceptions (spec/60_exceptions.md): the words of no row of the opcode map (O2) and the
addresses that CSR_MAP does not have (O29). -/

namespace Sys2Proof.Machine

/-! ## IllegalInstruction -/

/-- R101: every instruction has its row in the opcode map. -/
theorem exists_row_of_instr (i : Instr) : ∃ row ∈ opcodeMap, row.mnemonic = i.mnemonic := by
  cases i <;> (simp only [Instr.mnemonic]; decide)

/-- R100, R103: a word that matches no row is no instruction's. -/
theorem decode_of_unlisted {w : Word} (h : ∀ row ∈ opcodeMap, w &&& row.mask ≠ row.pattern) :
    ∃ e, decode w = .error e := by
  obtain ⟨hrows, _⟩ := wordIsInstructionIffItMatchesItsRow
  cases hd : decode w with
  | error e => exact ⟨e, rfl⟩
  | ok i =>
    obtain ⟨row, hrow, hname⟩ := exists_row_of_instr i
    exact absurd ((hrows row hrow w).mpr ⟨i, hd, hname.symm⟩) (h row hrow)

/-- Settles O2: the word is fetched, and it does not decode. -/
theorem unlistedWordRaisesIllegalInstruction : Obligations.UnlistedWordRaisesIllegalInstruction := by
  intro s hpc hunlisted
  obtain ⟨e, hdecode⟩ := decode_of_unlisted hunlisted
  exact step_of_illegal (State.fetch_accessible hpc) hdecode

/-! ## UnimplementedCSR -/

theorem csrFind_of_no_row {l : List CsrEntry} {a : CsrAddr} (h : ∀ e ∈ l, e.decl.addr ≠ a) : csrFind l a = none := by
  cases hfind : csrFind l a with
  | none => rfl
  | some e => exact absurd (csrFind_addr hfind) (h e (csrFind_mem hfind))

/-- R207, R240: an access to a CSR that CSR_MAP does not have stops before it reads or writes anything. -/
theorem State.csrAccess_missing {s : State} {a : CsrAddr} (h : csrFind s.csrs a = none) (rd : Reg) (src : Word)
    (new : Word → Word → Word) : s.csrAccess rd a src new = .fault (.unimplementedCSR a s.pc) := by
  rw [State.csrAccess, h]
  rfl

/-- Settles O29: the six share the access, whatever their operands; the old value is one that none of them reads. -/
theorem unimplementedCsrFaults : Obligations.UnimplementedCsrFaults :=
  fun rd rs1 zimm a s hno => csr_forms (P := fun i _ => exec i s = .fault (.unimplementedCSR a s.pc)) (old := 0#32)
    (fun _ src new hi => hi.trans (State.csrAccess_missing (csrFind_of_no_row hno) rd src new)) rs1 zimm

end Sys2Proof.Machine
end


section
/-! PROOFS. The statements on reset and on the end of a run (spec/70_reset_and_hazards.md): the state after reset (O41),
reset during a run (O42), the two idioms that end a run (O55), and that an ended run stays ended (O56). -/

namespace Sys2Proof.Machine

/-! ## Reset -/

/-- R45: only the register file's entry for x[0] is not RESET_REGS's. -/
theorem State.resetWith_x (cfg : Config.Params) (csrMap : List Config.CsrDecl) (mem : Memory) {r : Reg}
    (h : r ≠ 0#5) : (State.resetWith cfg csrMap mem).x r = cfg.resetRegs[r.toNat] := by
  have hne : 0 ≠ r.toNat := fun e => h (BitVec.eq_of_toNat_eq e.symm)
  rw [State.x, if_neg h]
  exact Vector.getElem_set_ne (by decide) r.isLt hne

/-- R35: the CSR file after a reset has the rows of CSR_MAP. -/
theorem State.resetWith_csrs_decl (cfg : Config.Params) (csrMap : List Config.CsrDecl) (mem : Memory) :
    (State.resetWith cfg csrMap mem).csrs.map CsrEntry.decl = csrMap := by
  simp [State.resetWith, Function.comp_def]

theorem State.resetWith_csrs_value (cfg : Config.Params) (csrMap : List Config.CsrDecl) (mem : Memory) :
    ∀ e ∈ (State.resetWith cfg csrMap mem).csrs, e.value = e.decl.resetValue := by
  simp [State.resetWith]

/-- Settles O41, field by field. -/
theorem resetState : Obligations.ResetState := by
  rintro cfg csrMap mem s rfl
  exact ⟨rfl, State.x_zero _, fun _ hr => State.resetWith_x cfg csrMap mem hr,
    State.resetWith_csrs_decl cfg csrMap mem, State.resetWith_csrs_value cfg csrMap mem, rfl, rfl, rfl⟩

/-- Settles O42: the reset is one over the memory, the parameters and the rows that the machine has. -/
theorem resetDuringARun : Obligations.ResetDuringARun :=
  fun s => ⟨rfl, fun _ => rfl, rfl, State.resetWith_csrs_decl s.cfg (s.csrs.map CsrEntry.decl) s.mem⟩

/-! ## The idioms that end a run -/

/-- R130: a jump to itself that links to x[0] changes nothing. -/
theorem exec_jal_self {s : State} (h : s.pc.toNat % 4 = 0) : exec (.jal 0#5 0#21) s = .next s := by
  have htarget : s.pc + offsetJ 0#21 = s.pc := BitVec.add_zero s.pc
  rw [exec, execJal, htarget, State.jumpAndLink, if_pos ((alignedTarget_iff s.pc).mpr h), State.setX_zero]
  rfl

/-- R141: a branch to itself that is always taken changes nothing. -/
theorem exec_beq_self {s : State} (h : s.pc.toNat % 4 = 0) : exec (.beq 0#5 0#5 0#13) s = .next s := by
  have htarget : s.pc + offsetB 0#13 = s.pc := BitVec.add_zero s.pc
  rw [exec, execBeq, (condEq_iff _ _).mpr rfl, State.branch_true_aligned (by rwa [htarget]), htarget]
  rfl

/-- R263: an instruction that changes nothing ends the run; what its fetch latched is not compared. -/
theorem final_of_exec_self {s : State} {i : Instr} (hpc : s.accessible s.pc .word = true)
    (hi : decode (s.wordAt s.pc) = .ok i) (hself : ∀ t : State, t.pc = s.pc → exec i t = .next t) : Final s :=
  ⟨_, (stepRunsDecodedInstruction s i hpc hi).trans (hself _ rfl), rfl, rfl, rfl, rfl⟩

/-- Settles O55: both words decode to a move of the pc to where it is. -/
theorem selfJumpIsFinal : Obligations.SelfJumpIsFinal := by
  intro s hpc hword
  have haligned : s.pc.toNat % 4 = 0 := (alignedFor_iff s.pc .word).mp (State.accessible_aligned hpc)
  obtain hjal | hbeq := hword
  · have hdecode : decode (s.wordAt s.pc) = .ok (.jal 0#5 0#21) := by rw [hjal]; rfl
    exact final_of_exec_self hpc hdecode fun t ht => exec_jal_self (ht ▸ haligned)
  · have hdecode : decode (s.wordAt s.pc) = .ok (.beq 0#5 0#5 0#13) := by rw [hbeq]; rfl
    exact final_of_exec_self hpc hdecode fun t ht => exec_beq_self (ht ▸ haligned)

/-! ## An ended run -/

/-- Jumps and branches use no free value, and no device sees them. -/
theorem ExecShape.free_io_eq {s t : State} {i : Instr} (h : ExecShape s i t) (hi : i.kind = .jump ∨ i.kind = .branch) :
    t.free = s.free ∧ t.io = s.io := by
  cases h with
  | jumped | branched | passed => simp
  | result _ _ hk | shifted _ _ _ _ hk | loaded _ _ _ _ hk | storedByte _ _ hk | storedHalf _ _ hk
  | storedWord _ _ hk | csrWritten _ _ _ _ hk | pushed _ _ _ hk | popped _ _ _ hk => simp [hk] at hi

/-- A state whose pc has not moved was left by a jump or a branch: any other instruction advances. -/
theorem ExecShape.jump_or_branch_of_pc_eq {s t : State} {i : Instr} (h : ExecShape s i t) (hpc : t.pc = s.pc) :
    i.kind = .jump ∨ i.kind = .branch := by
  obtain ⟨hadv, _⟩ | ⟨hk, _⟩ := h.pc_cases
  · rw [hpc] at hadv
    exact absurd hadv (by bv_omega)
  · exact hk

/-- R263: of a step that ends the run, fetched from plain memory, only the registers that no instruction names can
tell. -/
theorem step_final_eq {s t : State} (hplain : s.plainMemory s.pc .word = true) (h : step s = .next t)
    (hsame : SameProgramState s t) : t = { s with hw := t.hw } := by
  obtain ⟨hpc, hregs, hcsrs, hmem⟩ := hsame
  obtain ⟨w, i, _, _, hexec⟩ := step_next h
  rw [State.noteRead_plain hplain] at hexec
  have hshape := exec_shape hexec
  obtain ⟨hfree, hio⟩ := hshape.free_io_eq (hshape.jump_or_branch_of_pc_eq hpc)
  have hcfg : t.cfg = s.cfg := hshape.cfg_eq
  calc t = ⟨t.regs, t.pc, t.csrs, t.mem, t.hw, t.cfg, t.free, t.io⟩ := rfl
    _ = { s with hw := t.hw } := by rw [hregs, hpc, hcsrs, hmem, hcfg, hfree, hio]; rfl

/-- Outcomes that agree but for the datapath registers give the same program state. -/
theorem next_of_forgetDatapath_eq {r : Result} {t : State} (h : forgetDatapath r = forgetDatapath (.next t)) :
    ∃ u, r = .next u ∧ SameProgramState t u := by
  cases r with
  | next u =>
    have hstate : ({ u with hw := Datapath.reset } : State) = { t with hw := Datapath.reset } :=
      Host.Outcome.next.inj h
    obtain ⟨hregs, hpc, hcsrs, hmem, _⟩ := State.mk.inj hstate
    exact ⟨u, rfl, hpc, hregs, hcsrs, hmem⟩
  | fault e => cases h
  | refused e => cases h

/-- Settles O56: the state after the step differs from the one before it only in what no step reads (O48), so the next
step does the same. -/
theorem finalStatesStayFinal : Obligations.FinalStatesStayFinal := by
  rintro s t ⟨u, hu, hsame⟩ hplain h
  obtain rfl : u = t := Host.Outcome.next.inj (hu.symm.trans h)
  have heq : u = { s with hw := u.hw } := step_final_eq hplain hu hsame
  have hagain : forgetDatapath (step u) = forgetDatapath (.next u) := by
    rw [← hu, ← datapathRegistersAreUnobservable s u.hw, ← heq]
  exact ⟨hsame, next_of_forgetDatapath_eq hagain⟩

end Sys2Proof.Machine
end
